-- ==== Sys2Proof/Word.lean ====
section
/-! DEFINITION. The words of DJCU and the records made of them: what the manual treats as bits is a bit vector, what it
treats as a mathematical integer (coefficients, exponents: 00_scope.md R11) is a `Nat` or an `Int`. -/

namespace Sys2Proof

/-- Eight bits of a byte string (10_state.md R24). -/
abbrev Byte := BitVec 8

/-- A digit field: 4 bits, legal values 0 to 9 (10_state.md R22). -/
abbrev Digit := BitVec 4

/-- A 10-bit DPD group (40_dpd_codec.md R63). -/
abbrev Group := BitVec 10

/-- The three formats, in the order of their format codes (30_encoding.md R44). -/
inductive Fmt where
  | d32
  | d64
  | d128
  deriving DecidableEq, Repr

/-- The sign of a Decimal Value (10_state.md R17). -/
inductive Sign where
  | positive
  | negative
  deriving DecidableEq, Repr

/-- The kind of a Decimal Value (10_state.md R17). -/
inductive Kind where
  | finite
  | infinity
  | nan
  | signalingNan
  deriving DecidableEq, Repr

/-- A Decimal Value (10_state.md R17): independent of any format; `coefficient` and `exponent` mean something only
for a finite kind (R19). -/
structure DecimalValue where
  sign : Sign
  kind : Kind
  coefficient : Nat
  exponent : Int
  deriving DecidableEq, Repr

/-- A byte string: a length of 8 bits and a carrier of 16 bytes (10_state.md R24). -/
structure ByteString where
  len : BitVec 8
  data : Vector Byte 16
  deriving DecidableEq, Repr

/-- An arbitrary-precision decimal `u * 10^x` (10_state.md R25, 45_value_ops.md R125). -/
structure Apd where
  u : Int
  x : Int
  deriving DecidableEq, Repr

/-- Three decimal digits, `d0` the hundreds (40_dpd_codec.md R63). -/
structure Triplet where
  d0 : Digit
  d1 : Digit
  d2 : Digit
  deriving DecidableEq, Repr

/-- The bits of a Decimal Value on a port (10_state.md R18). The `COEFW`- and `EXPW`-bit fields are bit patterns
written as naturals, since their widths are parameters. -/
structure ValueField where
  sign : BitVec 1
  kind : BitVec 2
  coefficient : Nat
  exponent : Nat
  deriving DecidableEq, Repr

/-- The bits of an APD record on a port (10_state.md R25): patterns of `COEFW+1` and `EXPW` bits. -/
structure ApdField where
  u : Nat
  x : Nat
  deriving DecidableEq, Repr

/-- The payload of a request: every field any operation takes (10_state.md R22). An operation examines its own fields only. -/
structure Payload where
  d0 : Digit
  d1 : Digit
  d2 : Digit
  g : Group
  e : Nat
  u : Nat
  bs : ByteString
  val : ValueField
  apd : ApdField
  deriving DecidableEq, Repr

/-- A request record as it stands on a port (10_state.md R22). -/
structure Request where
  cmd : BitVec 8
  payload : Payload
  deriving DecidableEq, Repr

end Sys2Proof
end

