-- ==== Sys2Proof/Config.lean ====
section
/-! DEFINITION. The parameters of a DJCU: those the source fixes (00_scope.md R7) and those it leaves open (R8). -/

namespace Sys2Proof

/-- The parameters 00_scope.md R8 leaves open: the width of a coefficient field, the width of an exponent field, the
number of ports. (`PORT_PROTOCOL`, the fourth, is "OPEN: not modelled".) -/
structure Params where
  coefw : Nat
  expw : Nat
  nports : Nat
  deriving DecidableEq, Repr

/-- The constraints 00_scope.md R8 puts on the parameters. -/
structure Params.Legal (P : Params) : Prop where
  coefw_ge : 113 ≤ P.coefw
  expw_ge : 16 ≤ P.expw
  nports_ge : 1 ≤ P.nports

/-- The defaults of 00_scope.md R8. DESIGN CHOICE (log entry 6; unsafe for a claim about other widths): `State.reset` is the
machine with these values; every statement is made for all legal parameters. -/
def Params.standard : Params := { coefw := 128, expw := 32, nports := 1 }

/-- `totalBits` of each format (00_scope.md R7, 42_format_descriptor.md R77). -/
def Fmt.totalBits : Fmt → Nat
  | .d32 => 32
  | .d64 => 64
  | .d128 => 128

/-- `coefficientDigits` of each format (00_scope.md R7, 42_format_descriptor.md R77). -/
def Fmt.coefficientDigits : Fmt → Nat
  | .d32 => 7
  | .d64 => 16
  | .d128 => 34

/-- The format code `f`, the index into `ROM_FMT` (30_encoding.md R44). -/
def Fmt.index : Fmt → Fin 3
  | .d32 => 0
  | .d64 => 1
  | .d128 => 2

end Sys2Proof
end

