-- ==== Sys2Proof/Syntax.lean ====
section
/-! DEFINITION. The instructions of DJCU: one constructor per row of spec/opcode_table.json (30_encoding.md R46, R47), with
the operands of its request payload (10_state.md R22) read as the values of 30_encoding.md R49. -/

namespace Sys2Proof

/-- One transaction's operation with its operands. -/
inductive Instr where
  | dpdenc (d0 d1 d2 : Digit)
  | dpddec (g : Group)
  | fmtqD32
  | biasexpD32 (e : Int)
  | coefchkD32 (u : Int)
  | lenchkD32 (bs : ByteString)
  | rescaleD32 (v : DecimalValue)
  | roundD32 (v : DecimalValue)
  | validateD32 (v : DecimalValue)
  | decodeD32 (bs : ByteString)
  | encodeD32 (v : DecimalValue)
  | fromapd (a : Apd)
  | toapd (v : DecimalValue)
  | neg (v : DecimalValue)
  | fmtqD64
  | biasexpD64 (e : Int)
  | coefchkD64 (u : Int)
  | lenchkD64 (bs : ByteString)
  | rescaleD64 (v : DecimalValue)
  | roundD64 (v : DecimalValue)
  | validateD64 (v : DecimalValue)
  | decodeD64 (bs : ByteString)
  | encodeD64 (v : DecimalValue)
  | fmtqD128
  | biasexpD128 (e : Int)
  | coefchkD128 (u : Int)
  | lenchkD128 (bs : ByteString)
  | rescaleD128 (v : DecimalValue)
  | roundD128 (v : DecimalValue)
  | validateD128 (v : DecimalValue)
  | decodeD128 (bs : ByteString)
  | encodeD128 (v : DecimalValue)
  deriving DecidableEq, Repr

namespace Instr

/-! The nine format-dependent operations (30_encoding.md R45), with the format as an argument. -/

/-- `FMTQ.f` -/
def fmtq : Fmt → Instr
  | .d32 => .fmtqD32
  | .d64 => .fmtqD64
  | .d128 => .fmtqD128

/-- `BIASEXP.f e` -/
def biasexp (f : Fmt) (e : Int) : Instr :=
  match f with
  | .d32 => .biasexpD32 e
  | .d64 => .biasexpD64 e
  | .d128 => .biasexpD128 e

/-- `COEFCHK.f u` -/
def coefchk (f : Fmt) (u : Int) : Instr :=
  match f with
  | .d32 => .coefchkD32 u
  | .d64 => .coefchkD64 u
  | .d128 => .coefchkD128 u

/-- `LENCHK.f bs` -/
def lenchk (f : Fmt) (bs : ByteString) : Instr :=
  match f with
  | .d32 => .lenchkD32 bs
  | .d64 => .lenchkD64 bs
  | .d128 => .lenchkD128 bs

/-- `RESCALE.f v` -/
def rescale (f : Fmt) (v : DecimalValue) : Instr :=
  match f with
  | .d32 => .rescaleD32 v
  | .d64 => .rescaleD64 v
  | .d128 => .rescaleD128 v

/-- `ROUND.f v` -/
def round (f : Fmt) (v : DecimalValue) : Instr :=
  match f with
  | .d32 => .roundD32 v
  | .d64 => .roundD64 v
  | .d128 => .roundD128 v

/-- `VALIDATE.f v` -/
def validate (f : Fmt) (v : DecimalValue) : Instr :=
  match f with
  | .d32 => .validateD32 v
  | .d64 => .validateD64 v
  | .d128 => .validateD128 v

/-- `DECODE.f bs` -/
def decode (f : Fmt) (bs : ByteString) : Instr :=
  match f with
  | .d32 => .decodeD32 bs
  | .d64 => .decodeD64 bs
  | .d128 => .decodeD128 bs

/-- `ENCODE.f v` -/
def encode (f : Fmt) (v : DecimalValue) : Instr :=
  match f with
  | .d32 => .encodeD32 v
  | .d64 => .encodeD64 v
  | .d128 => .encodeD128 v

/-- The format whose descriptor the operation reads; `none` for a format-independent operation (30_encoding.md R45). -/
def format : Instr → Option Fmt
  | .dpdenc _ _ _ => none
  | .dpddec _ => none
  | .fmtqD32 => some .d32
  | .biasexpD32 _ => some .d32
  | .coefchkD32 _ => some .d32
  | .lenchkD32 _ => some .d32
  | .rescaleD32 _ => some .d32
  | .roundD32 _ => some .d32
  | .validateD32 _ => some .d32
  | .decodeD32 _ => some .d32
  | .encodeD32 _ => some .d32
  | .fromapd _ => none
  | .toapd _ => none
  | .neg _ => none
  | .fmtqD64 => some .d64
  | .biasexpD64 _ => some .d64
  | .coefchkD64 _ => some .d64
  | .lenchkD64 _ => some .d64
  | .rescaleD64 _ => some .d64
  | .roundD64 _ => some .d64
  | .validateD64 _ => some .d64
  | .decodeD64 _ => some .d64
  | .encodeD64 _ => some .d64
  | .fmtqD128 => some .d128
  | .biasexpD128 _ => some .d128
  | .coefchkD128 _ => some .d128
  | .lenchkD128 _ => some .d128
  | .rescaleD128 _ => some .d128
  | .roundD128 _ => some .d128
  | .validateD128 _ => some .d128
  | .decodeD128 _ => some .d128
  | .encodeD128 _ => some .d128

end Instr

end Sys2Proof
end

