-- ==== Sys2Proof/WellFormed.lean ====
section
/-! DEFINITION. Which instruction terms a port can carry: every integer operand fits the width 10_state.md R18, R22 and R25
give its field. (Digits, groups and byte strings fit by their types. A digit above 9 is carried, and faulted: R68.) -/

namespace Sys2Proof

/-- The integer fits a two's-complement field of `w` bits. -/
def fitsInt (w : Nat) (z : Int) : Bool := decide (-2 ^ (w - 1) ≤ z ∧ z < 2 ^ (w - 1))

/-- The natural fits an unsigned field of `w` bits. -/
def fitsNat (w : Nat) (n : Nat) : Bool := decide (n < 2 ^ w)

/-- The value fits the fields of 10_state.md R18. -/
def DecimalValue.fits (P : Params) (v : DecimalValue) : Bool :=
  fitsNat P.coefw v.coefficient && fitsInt P.expw v.exponent

/-- The APD record fits the fields of 10_state.md R25. -/
def Apd.fits (P : Params) (a : Apd) : Bool :=
  fitsInt (P.coefw + 1) a.u && fitsInt P.expw a.x

/-- The instruction's operands fit their fields. -/
def Instr.wellFormed (P : Params) : Instr → Bool
  | .dpdenc _ _ _ => true
  | .dpddec _ => true
  | .fmtqD32 => true
  | .biasexpD32 e => fitsInt P.expw e
  | .coefchkD32 u => fitsInt (P.coefw + 1) u
  | .lenchkD32 _ => true
  | .rescaleD32 v => v.fits P
  | .roundD32 v => v.fits P
  | .validateD32 v => v.fits P
  | .decodeD32 _ => true
  | .encodeD32 v => v.fits P
  | .fromapd a => a.fits P
  | .toapd v => v.fits P
  | .neg v => v.fits P
  | .fmtqD64 => true
  | .biasexpD64 e => fitsInt P.expw e
  | .coefchkD64 u => fitsInt (P.coefw + 1) u
  | .lenchkD64 _ => true
  | .rescaleD64 v => v.fits P
  | .roundD64 v => v.fits P
  | .validateD64 v => v.fits P
  | .decodeD64 _ => true
  | .encodeD64 v => v.fits P
  | .fmtqD128 => true
  | .biasexpD128 e => fitsInt P.expw e
  | .coefchkD128 u => fitsInt (P.coefw + 1) u
  | .lenchkD128 _ => true
  | .rescaleD128 v => v.fits P
  | .roundD128 v => v.fits P
  | .validateD128 v => v.fits P
  | .decodeD128 _ => true
  | .encodeD128 v => v.fits P

end Sys2Proof
end

