-- ==== Sys2Proof/Decode.lean ====
section
/-! DEFINITION. Reading a request record (30_encoding.md section 1) and writing one: the fields of the command byte, the
coding of the operand fields (10_state.md R18, 30_encoding.md R49), the decoder, total on every request and rejecting by
name, and the encoder. -/

namespace Sys2Proof

/-! ### Integers in fields of a stated width -/

/-- `nat_w` of a pattern: a field of `w` wires carries `w` bits (00_scope.md R12; log entry 7). -/
def natField (w pattern : Nat) : Nat := pattern % 2 ^ w

/-- `int_w` of a pattern: the two's-complement integer (00_scope.md R12). -/
def intField (w pattern : Nat) : Int :=
  if natField w pattern < 2 ^ (w - 1) then (natField w pattern : Int) else (natField w pattern : Int) - 2 ^ w

/-- The `w`-bit pattern of a natural. -/
def natCode (w n : Nat) : Nat := n % 2 ^ w

/-- The `w`-bit two's-complement pattern of an integer. -/
def intCode (w : Nat) (z : Int) : Nat := (z % 2 ^ w).toNat

/-! ### Signs and kinds (10_state.md R18) -/

/-- 0 is POSITIVE, 1 is NEGATIVE. -/
def Sign.ofBit (b : BitVec 1) : Sign := if b = 0 then .positive else .negative

/-- 0 is POSITIVE, 1 is NEGATIVE. -/
def Sign.code : Sign → BitVec 1
  | .positive => 0
  | .negative => 1

/-- 00 FINITE, 01 INFINITY, 10 NAN, 11 SIGNALING_NAN. -/
def Kind.ofBits (b : BitVec 2) : Kind :=
  if b = 0b00 then .finite else if b = 0b01 then .infinity else if b = 0b10 then .nan else .signalingNan

/-- 00 FINITE, 01 INFINITY, 10 NAN, 11 SIGNALING_NAN. -/
def Kind.code : Kind → BitVec 2
  | .finite => 0b00
  | .infinity => 0b01
  | .nan => 0b10
  | .signalingNan => 0b11

/-- A Decimal Value read from its port fields (10_state.md R18, 30_encoding.md R49). -/
def ValueField.read (P : Params) (b : ValueField) : DecimalValue :=
  { sign := Sign.ofBit b.sign
    kind := Kind.ofBits b.kind
    coefficient := natField P.coefw b.coefficient
    exponent := intField P.expw b.exponent }

/-- A Decimal Value written into its port fields. -/
def DecimalValue.code (P : Params) (v : DecimalValue) : ValueField :=
  { sign := v.sign.code
    kind := v.kind.code
    coefficient := natCode P.coefw v.coefficient
    exponent := intCode P.expw v.exponent }

/-- An APD record read from its port fields (10_state.md R25, 30_encoding.md R49). -/
def ApdField.read (P : Params) (b : ApdField) : Apd :=
  { u := intField (P.coefw + 1) b.u, x := intField P.expw b.x }

/-- An APD record written into its port fields. -/
def Apd.code (P : Params) (a : Apd) : ApdField :=
  { u := intCode (P.coefw + 1) a.u, x := intCode P.expw a.x }

/-! ### The command byte (30_encoding.md R43) -/

/-- `cmd[7:6]`, reserved. -/
def cmdRsv (cmd : BitVec 8) : BitVec 2 := cmd.extractLsb' 6 2

/-- `cmd[5:4]`, the format code. -/
def cmdFmt (cmd : BitVec 8) : BitVec 2 := cmd.extractLsb' 4 2

/-- `cmd[3:0]`, the operation number. -/
def cmdOp (cmd : BitVec 8) : BitVec 4 := cmd.extractLsb' 0 4

/-- The format a format code selects; `0b11` is reserved (30_encoding.md R44). -/
def fmtOfCode (code : BitVec 2) : Option Fmt :=
  if code = 0b00 then some .d32 else if code = 0b01 then some .d64 else if code = 0b10 then some .d128 else none

/-- Why a command byte is illegal (30_encoding.md R48). Each of the four is the one fault `IllegalCommand(cmd)` at the port. -/
inductive DecodeReject where
  /-- `RSV != 0b00` -/
  | reservedBits
  /-- `FMT = 0b11` -/
  | reservedFormat
  /-- `OP` is 0xE or 0xF -/
  | unassignedOperation
  /-- a format-independent `OP` with `FMT != 0b00` -/
  | formatNotZero
  deriving DecidableEq, Repr

/-- A format-independent operation requires `FMT = 0b00` (30_encoding.md R45). -/
def independent (f : Fmt) (i : Instr) : Except DecodeReject Instr :=
  if f = .d32 then .ok i else .error .formatNotZero

/-- The operation numbers of 30_encoding.md R46, each with the payload fields it takes (10_state.md R22). -/
def decodeOp (P : Params) (f : Fmt) (op : BitVec 4) (p : Payload) : Except DecodeReject Instr :=
  match op.toNat with
  | 0x0 => independent f (.dpdenc p.d0 p.d1 p.d2)
  | 0x1 => independent f (.dpddec p.g)
  | 0x2 => .ok (Instr.fmtq f)
  | 0x3 => .ok (Instr.biasexp f (intField P.expw p.e))
  | 0x4 => .ok (Instr.coefchk f (intField (P.coefw + 1) p.u))
  | 0x5 => .ok (Instr.lenchk f p.bs)
  | 0x6 => .ok (Instr.rescale f (p.val.read P))
  | 0x7 => .ok (Instr.round f (p.val.read P))
  | 0x8 => .ok (Instr.validate f (p.val.read P))
  | 0x9 => .ok (Instr.decode f p.bs)
  | 0xA => .ok (Instr.encode f (p.val.read P))
  | 0xB => independent f (.fromapd (p.apd.read P))
  | 0xC => independent f (.toapd (p.val.read P))
  | 0xD => independent f (.neg (p.val.read P))
  | _ => .error .unassignedOperation

/-- Command decode (30_encoding.md R48). -/
def decode (P : Params) (r : Request) : Except DecodeReject Instr :=
  if cmdRsv r.cmd ≠ 0 then .error .reservedBits
  else
    match fmtOfCode (cmdFmt r.cmd) with
    | none => .error .reservedFormat
    | some f => decodeOp P f (cmdOp r.cmd) r.payload

/-! ### The encoder -/

/-- The command byte of each instruction (30_encoding.md R47, R61 and the opcode table). -/
def Instr.commandByte : Instr → BitVec 8
  | .dpdenc _ _ _ => 0x00
  | .dpddec _ => 0x01
  | .fmtqD32 => 0x02
  | .biasexpD32 _ => 0x03
  | .coefchkD32 _ => 0x04
  | .lenchkD32 _ => 0x05
  | .rescaleD32 _ => 0x06
  | .roundD32 _ => 0x07
  | .validateD32 _ => 0x08
  | .decodeD32 _ => 0x09
  | .encodeD32 _ => 0x0A
  | .fromapd _ => 0x0B
  | .toapd _ => 0x0C
  | .neg _ => 0x0D
  | .fmtqD64 => 0x12
  | .biasexpD64 _ => 0x13
  | .coefchkD64 _ => 0x14
  | .lenchkD64 _ => 0x15
  | .rescaleD64 _ => 0x16
  | .roundD64 _ => 0x17
  | .validateD64 _ => 0x18
  | .decodeD64 _ => 0x19
  | .encodeD64 _ => 0x1A
  | .fmtqD128 => 0x22
  | .biasexpD128 _ => 0x23
  | .coefchkD128 _ => 0x24
  | .lenchkD128 _ => 0x25
  | .rescaleD128 _ => 0x26
  | .roundD128 _ => 0x27
  | .validateD128 _ => 0x28
  | .decodeD128 _ => 0x29
  | .encodeD128 _ => 0x2A

/-- The byte string of length 0 with all bytes zero. -/
def ByteString.zero : ByteString := { len := 0, data := #v[0, 0, 0, 0, 0, 0, 0, 0, 0, 0, 0, 0, 0, 0, 0, 0] }

/-- The payload with every field zero. -/
def Payload.zero : Payload :=
  { d0 := 0, d1 := 0, d2 := 0, g := 0, e := 0, u := 0, bs := ByteString.zero
    val := { sign := 0, kind := 0, coefficient := 0, exponent := 0 }
    apd := { u := 0, x := 0 } }

/-- The payload of each instruction: its own fields as 30_encoding.md R49 reads them. DESIGN CHOICE (log entry 8; safe): the fields it does
not use are zero. -/
def Instr.payload (P : Params) : Instr → Payload
  | .dpdenc d0 d1 d2 => { Payload.zero with d0 := d0, d1 := d1, d2 := d2 }
  | .dpddec g => { Payload.zero with g := g }
  | .fmtqD32 => Payload.zero
  | .biasexpD32 e => { Payload.zero with e := intCode P.expw e }
  | .coefchkD32 u => { Payload.zero with u := intCode (P.coefw + 1) u }
  | .lenchkD32 bs => { Payload.zero with bs := bs }
  | .rescaleD32 v => { Payload.zero with val := v.code P }
  | .roundD32 v => { Payload.zero with val := v.code P }
  | .validateD32 v => { Payload.zero with val := v.code P }
  | .decodeD32 bs => { Payload.zero with bs := bs }
  | .encodeD32 v => { Payload.zero with val := v.code P }
  | .fromapd a => { Payload.zero with apd := a.code P }
  | .toapd v => { Payload.zero with val := v.code P }
  | .neg v => { Payload.zero with val := v.code P }
  | .fmtqD64 => Payload.zero
  | .biasexpD64 e => { Payload.zero with e := intCode P.expw e }
  | .coefchkD64 u => { Payload.zero with u := intCode (P.coefw + 1) u }
  | .lenchkD64 bs => { Payload.zero with bs := bs }
  | .rescaleD64 v => { Payload.zero with val := v.code P }
  | .roundD64 v => { Payload.zero with val := v.code P }
  | .validateD64 v => { Payload.zero with val := v.code P }
  | .decodeD64 bs => { Payload.zero with bs := bs }
  | .encodeD64 v => { Payload.zero with val := v.code P }
  | .fmtqD128 => Payload.zero
  | .biasexpD128 e => { Payload.zero with e := intCode P.expw e }
  | .coefchkD128 u => { Payload.zero with u := intCode (P.coefw + 1) u }
  | .lenchkD128 bs => { Payload.zero with bs := bs }
  | .rescaleD128 v => { Payload.zero with val := v.code P }
  | .roundD128 v => { Payload.zero with val := v.code P }
  | .validateD128 v => { Payload.zero with val := v.code P }
  | .decodeD128 bs => { Payload.zero with bs := bs }
  | .encodeD128 v => { Payload.zero with val := v.code P }

/-- The request record of an instruction. -/
def encode (P : Params) (i : Instr) : Request :=
  { cmd := i.commandByte, payload := i.payload P }

/-- The instruction the decoder reads from a command byte whose operand words are all zero (the host's question: one
word of the opcode table, 8 bits). -/
def decodeTableWord (nbits w : Nat) : Option Instr :=
  if nbits = 8 ∧ w < 2 ^ 8 then
    (decode Params.standard { cmd := BitVec.ofNat 8 w, payload := Payload.zero }).toOption
  else none

end Sys2Proof
end

