-- ==== Sys2Proof/Machine/Tables.lean ====
section
/-! DEFINITION. The contents of the two constant tables: the derivation of the Format Descriptors (42_format_descriptor.md R77
to R85) and the DPD encode and decode functions (40_dpd_codec.md R63 to R67) with the table made from them (R75). -/

namespace Sys2Proof.Machine

/-! ### Format Descriptors -/

/-- A Format Descriptor: the ten fields of 10_state.md R26. -/
structure Descriptor where
  totalBits : Nat
  coefficientDigits : Nat
  exponentContinuationBits : Nat
  coefficientContinuationBits : Nat
  exponentBias : Nat
  maxBiasedExponent : Nat
  eMin : Int
  eMax : Nat
  maxCoefficient : Nat
  byteLength : Nat
  deriving DecidableEq, Repr

/-- `C = 10 * floor((p - 1) / 3)` (R78). -/
def continuationBits (p : Nat) : Nat := 10 * ((p - 1) / 3)

/-- `E = T - 1 - 5 - C` (R79). -/
def exponentBits (T p : Nat) : Nat := T - 1 - 5 - continuationBits p

/-- `eLimit = 3 * 2^E - 1` (R80). -/
def eLimit (T p : Nat) : Nat := 3 * 2 ^ exponentBits T p - 1

/-- `eMin = -(eLimit div 2)` (R81; 90_conflicts.md C5). -/
def eMinimum (T p : Nat) : Int := -((eLimit T p / 2 : Nat) : Int)

/-- `eMax = -eMin + 1` (R82). -/
def eMaximum (T p : Nat) : Nat := (-eMinimum T p + 1).toNat

/-- `exponentBias = -eMin + p - 1` (R83). -/
def bias (T p : Nat) : Nat := (-eMinimum T p + p - 1).toNat

/-- "All fields derive deterministically from `totalBits` and `coefficientDigits`" (R77 to R84). -/
def Descriptor.derive (T p : Nat) : Descriptor :=
  { totalBits := T
    coefficientDigits := p
    exponentContinuationBits := exponentBits T p
    coefficientContinuationBits := continuationBits p
    exponentBias := bias T p
    maxBiasedExponent := eLimit T p
    eMin := eMinimum T p
    eMax := eMaximum T p
    maxCoefficient := 10 ^ p - 1
    byteLength := T / 8 }

/-- The contents of one entry of `ROM_FMT` (10_state.md R15). -/
def formatConstants (f : Fmt) : Descriptor := Descriptor.derive f.totalBits f.coefficientDigits

/-- The contents of `ROM_FMT`, indexed by the format code (10_state.md R15, 42_format_descriptor.md R85). -/
def romFmtContents : Vector Descriptor 3 :=
  #v[formatConstants .d32, formatConstants .d64, formatConstants .d128]

/-! ### Densely packed decimal -/

/-- A group from its bits `p q r s t u v w x y`, most significant first (40_dpd_codec.md R63). -/
def groupOf (p q r s t u v w x y : Bool) : Group :=
  BitVec.ofNat 10
    (512 * p.toNat + 256 * q.toNat + 128 * r.toNat + 64 * s.toNat + 32 * t.toNat + 16 * u.toNat + 8 * v.toNat +
      4 * w.toNat + 2 * x.toNat + y.toNat)

/-- A digit from its bits, most significant first (40_dpd_codec.md R63). -/
def digitOf (a b c d : Bool) : Digit :=
  BitVec.ofNat 4 (8 * a.toNat + 4 * b.toNat + 2 * c.toNat + d.toNat)

/-- `DpdEnc`, the eight rows selected by which digits are large (40_dpd_codec.md R64; the layouts are the spec's general
knowledge G1, log entry 12). -/
def dpdEnc (d0 d1 d2 : Digit) : Group :=
  let b := d0.getLsbD 2
  let c := d0.getLsbD 1
  let d := d0.getLsbD 0
  let f := d1.getLsbD 2
  let g := d1.getLsbD 1
  let h := d1.getLsbD 0
  let j := d2.getLsbD 2
  let k := d2.getLsbD 1
  let m := d2.getLsbD 0
  match d0.getLsbD 3, d1.getLsbD 3, d2.getLsbD 3 with
  | false, false, false => groupOf b c d f g h false j k m
  | false, false, true => groupOf b c d f g h true false false m
  | false, true, false => groupOf b c d j k h true false true m
  | true, false, false => groupOf j k d f g h true true false m
  | true, true, false => groupOf j k d false false h true true true m
  | true, false, true => groupOf f g d false true h true true true m
  | false, true, true => groupOf b c d true false h true true true m
  | true, true, true => groupOf false false d true true h true true true m

/-- `DpdDec`, the eight rows selected by `v`, then `w x`, then `s t` (40_dpd_codec.md R66). -/
def dpdDec (code : Group) : Triplet :=
  let p := code.getLsbD 9
  let q := code.getLsbD 8
  let r := code.getLsbD 7
  let s := code.getLsbD 6
  let t := code.getLsbD 5
  let u := code.getLsbD 4
  let w := code.getLsbD 2
  let x := code.getLsbD 1
  let y := code.getLsbD 0
  let small (a b c : Bool) := digitOf false a b c
  let large (a : Bool) := digitOf true false false a
  match code.getLsbD 3, w, x, s, t with
  | false, _, _, _, _ => { d0 := small p q r, d1 := small s t u, d2 := small w x y }
  | true, false, false, _, _ => { d0 := small p q r, d1 := small s t u, d2 := large y }
  | true, false, true, _, _ => { d0 := small p q r, d1 := large u, d2 := small s t y }
  | true, true, false, _, _ => { d0 := large r, d1 := small s t u, d2 := small p q y }
  | true, true, true, false, false => { d0 := large r, d1 := large u, d2 := small p q y }
  | true, true, true, false, true => { d0 := large r, d1 := small p q u, d2 := large y }
  | true, true, true, true, false => { d0 := small p q r, d1 := large u, d2 := large y }
  | true, true, true, true, true => { d0 := large r, d1 := large u, d2 := large y }

/-- `DpdEnc` as Boolean equations (40_dpd_codec.md R65): the form of an implementation in logic (R74). -/
def dpdEncLogic (d0 d1 d2 : Digit) : Group :=
  let a := d0.getLsbD 3
  let b := d0.getLsbD 2
  let c := d0.getLsbD 1
  let d := d0.getLsbD 0
  let e := d1.getLsbD 3
  let f := d1.getLsbD 2
  let g := d1.getLsbD 1
  let h := d1.getLsbD 0
  let i := d2.getLsbD 3
  let j := d2.getLsbD 2
  let k := d2.getLsbD 1
  let m := d2.getLsbD 0
  groupOf (b || (a && j) || (a && f && i))
    (c || (a && k) || (a && g && i))
    d
    ((f && (!a || !i)) || (!a && e && j) || (e && i))
    (g || (!a && e && k) || (a && i))
    h
    (a || e || i)
    (a || (e && i) || (!e && j))
    (e || (a && i) || (!a && k))
    m

/-- `DpdDec` as Boolean equations (40_dpd_codec.md R67). -/
def dpdDecLogic (code : Group) : Triplet :=
  let p := code.getLsbD 9
  let q := code.getLsbD 8
  let r := code.getLsbD 7
  let s := code.getLsbD 6
  let t := code.getLsbD 5
  let u := code.getLsbD 4
  let v := code.getLsbD 3
  let w := code.getLsbD 2
  let x := code.getLsbD 1
  let y := code.getLsbD 0
  { d0 := digitOf (v && w && (!x || !s || t))
            (p && (!v || !w || (x && s && !t)))
            (q && (!v || !w || (x && s && !t)))
            r
    d1 := digitOf (v && x && (!w || !t || s))
            ((s && (!v || !x)) || (p && v && w && x && !s && t))
            ((t && (!v || !x)) || (q && v && w && x && !s && t))
            u
    d2 := digitOf (v && ((!w && !x) || (w && x && (s || t))))
            ((!v && w) || (s && v && !w && x) || (p && v && w && (!x || (!s && !t))))
            ((!v && x) || (t && v && !w && x) || (q && v && w && (!x || (!s && !t))))
            y }

/-- The contents of `ROM_DPD`: "generated ... from the documented bit-layout rules" (10_state.md R16, 70_reset_and_hazards.md R153). -/
def romDpdContents : Vector Triplet 1024 :=
  ⟨⟨(List.range 1024).map fun n => dpdDec (BitVec.ofNat 10 n)⟩, by simp⟩

end Sys2Proof.Machine
end

