-- ==== Sys2Proof/Machine/Response.lean ====
section
/-! DEFINITION. The response record: its results (10_state.md R23), its faults (60_exceptions.md R134, R135), and the bits of both
on a port (field widths and codes: 10_state.md R18, R23 to R26; 60_exceptions.md R135). -/

namespace Sys2Proof.Machine

/-- What an `OverflowError` reports (60_exceptions.md R138): the unbiased exponent, or the coefficient magnitude. -/
inductive Overflow where
  | exp (e : Int)
  | coef (c : Nat)
  deriving DecidableEq, Repr

/-- The reason of an `IllegalOperand` (60_exceptions.md R141). -/
inductive OperandReason where
  | digit
  | apdMagnitude
  deriving DecidableEq, Repr

/-- The fault taxonomy (60_exceptions.md R135): each is a response, and the unit goes on (R134). -/
inductive FaultInfo where
  /-- LENCHK, DECODE: the two lengths (R136) -/
  | lengthError (actual expected : Nat)
  /-- VALIDATE, ENCODE (R138) -/
  | overflowError (o : Overflow)
  /-- TOAPD (R139) -/
  | inconvertibleValue (kind : Kind) (sign : Sign)
  /-- reserved, raised by nothing (R137) -/
  | malformedNumericString
  /-- command decode (R140) -/
  | illegalCommand (cmd : BitVec 8)
  /-- DPDENC, FROMAPD (R141) -/
  | illegalOperand (reason : OperandReason)
  deriving DecidableEq, Repr

/-- The response of a transaction (10_state.md R23): one result constructor, or a fault. -/
inductive Response where
  | group (g : Group)
  | triplet (t : Triplet)
  | descriptor (D : Descriptor)
  | int (n : Int)
  | bool (b : Bool)
  | pass
  | value (v : DecimalValue)
  | bytes (bs : ByteString)
  | apd (a : Apd)
  | fault (f : FaultInfo)
  deriving DecidableEq, Repr

/-- The response carries a fault instead of a result. -/
def Response.isFault : Response → Bool
  | .fault _ => true
  | _ => false

/-! ### The bits of a response on a port -/

/-- The descriptor record's fields (10_state.md R26); `maxCoefficient` is a pattern of `COEFW` bits. -/
structure DescriptorField where
  totalBits : BitVec 8
  coefficientDigits : BitVec 6
  exponentContinuationBits : BitVec 4
  coefficientContinuationBits : BitVec 7
  exponentBias : BitVec 13
  maxBiasedExponent : BitVec 14
  eMin : BitVec 14
  eMax : BitVec 13
  maxCoefficient : Nat
  byteLength : BitVec 5
  deriving DecidableEq, Repr

/-- The `info` record of a fault (60_exceptions.md R135). -/
inductive InfoField where
  | none
  | lengths (actual : BitVec 8) (expected : BitVec 5)
  /-- `which` and a value of `EXPW` (EXP) or `COEFW` (COEF) bits -/
  | overflow (which : BitVec 1) (value : Nat)
  | special (kind : BitVec 2) (sign : BitVec 1)
  | command (cmd : BitVec 8)
  | reason (r : BitVec 1)
  deriving DecidableEq, Repr

/-- The response record as it stands on a port (10_state.md R23; the coding of the tag itself is not modelled, as the spec says). -/
inductive PortResponse where
  | group (g : BitVec 10)
  | triplet (d0 d1 d2 : BitVec 4)
  | descriptor (D : DescriptorField)
  /-- `EXPW+1` bits, two's complement -/
  | int (n : Nat)
  | bool (b : BitVec 1)
  | pass
  | value (v : ValueField)
  | bytes (bs : ByteString)
  | apd (a : ApdField)
  | fault (code : BitVec 3) (info : InfoField)
  deriving DecidableEq, Repr

/-- The descriptor record's bits (10_state.md R26). -/
def Descriptor.code (P : Params) (D : Descriptor) : DescriptorField :=
  { totalBits := BitVec.ofNat 8 D.totalBits
    coefficientDigits := BitVec.ofNat 6 D.coefficientDigits
    exponentContinuationBits := BitVec.ofNat 4 D.exponentContinuationBits
    coefficientContinuationBits := BitVec.ofNat 7 D.coefficientContinuationBits
    exponentBias := BitVec.ofNat 13 D.exponentBias
    maxBiasedExponent := BitVec.ofNat 14 D.maxBiasedExponent
    eMin := BitVec.ofInt 14 D.eMin
    eMax := BitVec.ofNat 13 D.eMax
    maxCoefficient := natCode P.coefw D.maxCoefficient
    byteLength := BitVec.ofNat 5 D.byteLength }

/-- The descriptor record read from its bits, all unsigned but `eMin` (10_state.md R26). -/
def DescriptorField.read (P : Params) (b : DescriptorField) : Descriptor :=
  { totalBits := b.totalBits.toNat
    coefficientDigits := b.coefficientDigits.toNat
    exponentContinuationBits := b.exponentContinuationBits.toNat
    coefficientContinuationBits := b.coefficientContinuationBits.toNat
    exponentBias := b.exponentBias.toNat
    maxBiasedExponent := b.maxBiasedExponent.toNat
    eMin := b.eMin.toInt
    eMax := b.eMax.toNat
    maxCoefficient := natField P.coefw b.maxCoefficient
    byteLength := b.byteLength.toNat }

/-- The 3-bit fault codes (60_exceptions.md R135). -/
def FaultInfo.code : FaultInfo → BitVec 3
  | .lengthError _ _ => 1
  | .overflowError _ => 2
  | .inconvertibleValue _ _ => 3
  | .malformedNumericString => 4
  | .illegalCommand _ => 5
  | .illegalOperand _ => 6

/-- The bits of a fault's `info` record (60_exceptions.md R135). -/
def FaultInfo.info (P : Params) : FaultInfo → InfoField
  | .lengthError actual expected => .lengths (BitVec.ofNat 8 actual) (BitVec.ofNat 5 expected)
  | .overflowError (.exp e) => .overflow 0 (intCode P.expw e)
  | .overflowError (.coef c) => .overflow 1 (natCode P.coefw c)
  | .inconvertibleValue kind sign => .special kind.code sign.code
  | .malformedNumericString => .none
  | .illegalCommand cmd => .command cmd
  | .illegalOperand .digit => .reason 0
  | .illegalOperand .apdMagnitude => .reason 1

/-- A fault read from its code and `info` record; `none` for a pair no fault has. -/
def FaultInfo.read (P : Params) (code : BitVec 3) (info : InfoField) : Option FaultInfo :=
  match code.toNat, info with
  | 1, .lengths actual expected => some (.lengthError actual.toNat expected.toNat)
  | 2, .overflow which value =>
    some (.overflowError (if which = 0 then .exp (intField P.expw value) else .coef (natField P.coefw value)))
  | 3, .special kind sign => some (.inconvertibleValue (Kind.ofBits kind) (Sign.ofBit sign))
  | 4, .none => some .malformedNumericString
  | 5, .command cmd => some (.illegalCommand cmd)
  | 6, .reason r => some (.illegalOperand (if r = 0 then .digit else .apdMagnitude))
  | _, _ => none

/-- The bits of a response (10_state.md R18, R23 to R26). -/
def Response.code (P : Params) : Response → PortResponse
  | .group g => .group g
  | .triplet t => .triplet t.d0 t.d1 t.d2
  | .descriptor D => .descriptor (D.code P)
  | .int n => .int (intCode (P.expw + 1) n)
  | .bool b => .bool (BitVec.ofBool b)
  | .pass => .pass
  | .value v => .value (v.code P)
  | .bytes bs => .bytes bs
  | .apd a => .apd (a.code P)
  | .fault f => .fault f.code (f.info P)

/-- A response as the host reads it from its bits. -/
def PortResponse.read (P : Params) : PortResponse → Option Response
  | .group g => some (.group g)
  | .triplet d0 d1 d2 => some (.triplet { d0 := d0, d1 := d1, d2 := d2 })
  | .descriptor D => some (.descriptor (D.read P))
  | .int n => some (.int (intField (P.expw + 1) n))
  | .bool b => some (.bool (decide (b = 1)))
  | .pass => some .pass
  | .value v => some (.value (v.read P))
  | .bytes bs => some (.bytes bs)
  | .apd a => some (.apd (a.read P))
  | .fault code info => (FaultInfo.read P code info).map .fault

end Sys2Proof.Machine
end

