-- ==== Sys2Proof/Machine/State.lean ====
section
/-! DEFINITION. The state of a DJCU: its two constant tables and the requests and responses at its ports (10_state.md R15, R16,
R29, R30); the reasons a step of the model can stop; the machine right after reset. -/

namespace Sys2Proof.Machine

/-- The reasons the machine can stop with a fault: none. A fault of DJCU is a response, after which the unit serves the
next request (60_exceptions.md R134, 70_reset_and_hazards.md R161), and "Nothing in DJCU is `stuck`" (93_implementation_defined.md). Log entry 10. -/
inductive Fault where
  deriving DecidableEq, Repr

/-- The reasons a step can be refused. -/
inductive Refusal where
  /-- Fixed by the host: an arm of `exec` with no meaning yet would answer it (safe). No arm does. -/
  | notModelled (mnemonic : String)
  deriving DecidableEq, Repr

/-- One port (10_state.md R30): its unanswered requests and its delivered responses, each oldest first. -/
structure Port where
  requests : List Request
  responses : List PortResponse
  deriving DecidableEq, Repr

/-- A port with no request awaiting a response and no response pending (10_state.md R29). -/
def Port.empty : Port := { requests := [], responses := [] }

/-- The state of a DJCU. `romFmt`, `romDpd` and `ports` are the spec's (10_state.md R29); `params` is the configuration
(00_scope.md R8), written by nothing; `turn` is the model's own: which port's server is asked first (log entry 4). -/
structure State where
  params : Params
  romFmt : Vector Descriptor 3
  romDpd : Vector Triplet 1024
  ports : List Port
  turn : Nat
  deriving DecidableEq, Repr

/-- A DJCU with parameters `P` after reset: the tables hold their constants and no port has anything in flight
(10_state.md R29, 70_reset_and_hazards.md R151, R163). `turn := 0` is a DESIGN CHOICE (log entry 4). -/
def State.afterReset (P : Params) : State :=
  { params := P
    romFmt := romFmtContents
    romDpd := romDpdContents
    ports := List.replicate P.nports Port.empty
    turn := 0 }

/-- The machine right after reset, with the spec's default parameters (00_scope.md R8; log entry 6). -/
def State.reset : State := State.afterReset Params.standard

end Sys2Proof.Machine
end

