-- ==== Sys2Proof/Machine/Operands.lean ====
section
/-! DEFINITION. The operand forms: byte strings as words and back (20_memory.md R33, R34), slices (00_scope.md R9), decimal digits
of a coefficient (00_scope.md R10), the combination field (30_encoding.md R52), special values (10_state.md R19). -/

namespace Sys2Proof.Machine

/-! ### Byte strings -/

/-- `W(bs)` of the first `n` bytes: byte 0 is the most significant (20_memory.md R33). -/
def wordOf (n : Nat) (bs : ByteString) : Nat :=
  (bs.data.toList.take n).foldl (fun w b => w * 256 + b.toNat) 0

/-- Stream bit `k`: bit `7 - (k mod 8)` of byte `floor(k/8)` (00_scope.md R9, 20_memory.md R34). -/
def streamBit (bs : ByteString) (k : Nat) : Bool :=
  (bs.data.toList.getD (k / 8) 0).getLsbD (7 - k % 8)

/-- The carrier of 16 bytes given byte by byte. -/
def carrier (byte : Nat → Byte) : Vector Byte 16 :=
  #v[byte 0, byte 1, byte 2, byte 3, byte 4, byte 5, byte 6, byte 7, byte 8, byte 9, byte 10, byte 11, byte 12, byte 13,
    byte 14, byte 15]

/-- The byte string of `n` bytes whose word is `W`: `data[i] = W[8n-1-8i : 8n-8-8i]` for `i < n`, zero beyond
(10_state.md R24, 44_binary_codec.md R119). -/
def bytesOf (n W : Nat) : ByteString :=
  { len := BitVec.ofNat 8 n
    data := carrier fun i => if i < n then BitVec.ofNat 8 (W / 2 ^ (8 * (n - 1 - i))) else 0 }

/-- `v[hi:lo]` (00_scope.md R9). -/
def slice (v hi lo : Nat) : Nat := v / 2 ^ lo % 2 ^ (hi + 1 - lo)

/-! ### Decimal digits -/

/-- The digits of `c`, at most `fuel` of them counted. -/
def digitsUpTo : Nat → Nat → Nat
  | 0, _ => 1
  | fuel + 1, c => if c < 10 then 1 else digitsUpTo fuel (c / 10) + 1

/-- `digits(c)`: the number of decimal digits without leading zeros, `digits(0) = 1` (00_scope.md R10). -/
def digits (c : Nat) : Nat := digitsUpTo (Nat.log2 c) c

/-- `digit(c, i)`: the digit of weight `10^i` (00_scope.md R10). -/
def digit (c i : Nat) : Nat := c / 10 ^ i % 10

/-- A decimal digit as a 4-bit field. -/
def digitField (c i : Nat) : Digit := BitVec.ofNat 4 (digit c i)

/-- The value of a triplet, `d0` the hundreds (40_dpd_codec.md R63). -/
def tripletValue (t : Triplet) : Nat := 100 * t.d0.toNat + 10 * t.d1.toNat + t.d2.toNat

/-! ### The combination field (30_encoding.md R52; the sub-layouts are the spec's general knowledge G2, log entry 12) -/

/-- The exponent's top bits `EM` and the most significant digit from a finite word's combination field
(44_binary_codec.md R113). -/
def splitCombination (G : BitVec 5) : Nat × Nat :=
  if G.extractLsb' 3 2 = 0b11 then ((G.extractLsb' 1 2).toNat, 8 + (G.extractLsb' 0 1).toNat)
  else ((G.extractLsb' 3 2).toNat, (G.extractLsb' 0 3).toNat)

/-- The combination field of a finite word, the sub-layout chosen "based on whether the MSD is ≥8" (44_binary_codec.md R117). -/
def joinCombination (em msd : Nat) : BitVec 5 :=
  if msd < 8 then BitVec.ofNat 2 em ++ BitVec.ofNat 3 msd
  else (0b11 : BitVec 2) ++ BitVec.ofNat 2 em ++ BitVec.ofNat 1 msd

/-! ### Decimal Values -/

/-- A finite value. -/
def finiteValue (s : Sign) (c : Nat) (e : Int) : DecimalValue :=
  { sign := s, kind := .finite, coefficient := c, exponent := e }

/-- A special value in canonical form (10_state.md R19). -/
def specialValue (s : Sign) (k : Kind) : DecimalValue := { sign := s, kind := k, coefficient := 0, exponent := 0 }

/-- `canon(v)` (43_rescale_round.md R104): a special value's unused fields cleared. -/
def canon (v : DecimalValue) : DecimalValue :=
  if v.kind = .finite then v else specialValue v.sign v.kind

/-- The opposite sign. -/
def flipSign : Sign → Sign
  | .positive => .negative
  | .negative => .positive

end Sys2Proof.Machine
end

