-- ==== Sys2Proof/Machine/Flags.lean ====
section
/-! DEFINITION. DJCU "has no status flags, condition codes or predicates" (10_state.md R27): no operation computes a flag. What stands in their
place are the tests whose outcome a response reports: the range tests of 42_format_descriptor.md and 43_rescale_round.md and the operand
tests of 60_exceptions.md R141. -/

namespace Sys2Proof.Machine

/-- `be = e + B` (42_format_descriptor.md R83, R87): exact. -/
def biased (F : Descriptor) (e : Int) : Int := e + F.exponentBias

/-- The biased exponent is in `[0, eLimit]` (43_rescale_round.md R102). -/
def exponentInRange (F : Descriptor) (e : Int) : Bool := decide (0 ≤ biased F e ∧ biased F e ≤ F.maxBiasedExponent)

/-- The coefficient magnitude is at most `maxCoefficient` (43_rescale_round.md R102). -/
def magnitudeInRange (F : Descriptor) (c : Nat) : Bool := decide (c ≤ F.maxCoefficient)

/-- `isCoefficientInRange` of a signed coefficient (42_format_descriptor.md R88). -/
def coefficientInRange (F : Descriptor) (u : Int) : Bool :=
  decide (-(F.maxCoefficient : Int) ≤ u ∧ u ≤ F.maxCoefficient)

/-- The finite value `(s, c, e)` is valid for `F` (43_rescale_round.md R102). -/
def validFor (F : Descriptor) (c : Nat) (e : Int) : Bool := exponentInRange F e && magnitudeInRange F c

/-- Why a finite value is not valid, the exponent first (43_rescale_round.md R102, 60_exceptions.md R138, R143). -/
def overflowOf (F : Descriptor) (c : Nat) (e : Int) : Option Overflow :=
  if exponentInRange F e = false then some (.exp e)
  else if magnitudeInRange F c = false then some (.coef c)
  else none

/-- The digit field holds 0 to 9 (40_dpd_codec.md R68). -/
def digitLegal (d : Digit) : Bool := decide (d.toNat ≤ 9)

/-- `|u|` does not fit `COEFW` bits: the one value `-2^COEFW` (45_value_ops.md R126). -/
def magnitudeTooWide (P : Params) (u : Int) : Bool := decide (u = -2 ^ P.coefw)

end Sys2Proof.Machine
end

