-- ==== Sys2Proof/Machine/Ops.lean ====
section
/-! DEFINITION. The operations on the state that every meaning shares: reading the constant tables, finding the request to be
served, delivering its response, raising a fault. -/

namespace Sys2Proof.Machine

/-! ### The constant tables (10_state.md R15, R16) -/

/-- `ROM_FMT[f]`. -/
def State.descriptor (s : State) (f : Fmt) : Descriptor := s.romFmt[f.index]

/-- `ROM_DPD[g]`. -/
def romRead (rom : Vector Triplet 1024) (g : Group) : Triplet := rom[g.toNat]'g.isLt

/-! ### Serving a port (10_state.md R30) -/

/-- The oldest unanswered request of port `k`, with the port's number. -/
def State.oldestAt (s : State) (k : Nat) : Option (Nat × Request) :=
  (s.ports[k]?).bind fun p => p.requests.head?.map fun r => (k, r)

/-- The port numbers in the order they are asked: from `turn` on, cyclically. DESIGN CHOICE (log entry 4; the spec gives no
order between ports, and none can be observed: 10_state.md R30). -/
def State.askOrder (s : State) : List Nat :=
  (List.range s.ports.length).map fun j => (s.turn + j) % s.ports.length

/-- The transaction to be served next: a port with work, and its oldest unanswered request; `none` when no port has work. -/
def State.pick (s : State) : Option (Nat × Request) := s.askOrder.findSome? s.oldestAt

/-- A port after its oldest request has been answered. -/
def Port.answered (r : PortResponse) (p : Port) : Port :=
  { requests := p.requests.tail, responses := p.responses ++ [r] }

/-- Deliver the response of the transaction being served (10_state.md R21, R23): its request leaves the port, the response's bits follow the
port's earlier responses (00_scope.md R8, "in request order"), and nothing else changes (20_memory.md R37) but whose turn it is. With no
request at any port there is nothing to answer and nothing changes (log entry 3). -/
def State.deliver (s : State) (r : Response) : State :=
  match s.pick with
  | none => s
  | some (k, _) =>
    { s with ports := s.ports.modify k (Port.answered (r.code s.params)), turn := (k + 1) % s.ports.length }

/-! ### Taking a fault (60_exceptions.md R133, R134) -/

/-- `raise f`: the fault response takes the result's place. "Nothing else happens: no state is saved, no mode changes, no vector is
fetched" (R134), so this is the whole of exception entry; there is "no return operation and nothing to restore" (R146). -/
def raise (f : FaultInfo) : Response := .fault f

/-- An illegal command byte (30_encoding.md R48, 60_exceptions.md R140): no payload field is examined. -/
def execIllegal (cmd : BitVec 8) (s : State) : Host.Outcome State Fault Refusal :=
  .next (s.deliver (raise (.illegalCommand cmd)))

/-! ### Fetching -/

/-- The instruction the next step runs: the decoded command of the request to be served. -/
def State.fetch (s : State) : Option (Request × Except DecodeReject Instr) :=
  s.pick.map fun t => (t.2, decode s.params t.2)

/-- Port `k`'s list of requests with `r` in the place of the oldest (or alone, if there was none). -/
def Port.withOldest (r : Request) (p : Port) : Port := { p with requests := r :: p.requests.tail }

/-- `s` with the request of command byte `w` and an all-zero payload as the transaction to be served next: in place of the one
that would be, or at the port whose turn it is when there is none (log entry 1). -/
def State.withRequestWord (s : State) (w : Nat) : State :=
  let r : Request := { cmd := BitVec.ofNat 8 w, payload := Payload.zero }
  match s.pick with
  | some (k, _) => { s with ports := s.ports.modify k (Port.withOldest r) }
  | none =>
    if s.ports = [] then { s with ports := [{ requests := [r], responses := [] }] }
    else { s with ports := s.ports.modify (s.turn % s.ports.length) (Port.withOldest r) }

end Sys2Proof.Machine
end

