-- ==== Sys2Proof/Machine/Dpd.lean ====
section
/-! DEFINITION. The DPD codec (40_dpd_codec.md): DPDENC, DPDDEC and the coefficient-wide chains ENCODE and DECODE use. -/

namespace Sys2Proof.Machine

/-- The response of DPDENC (R68). -/
def dpdencResponse (d0 d1 d2 : Digit) : Response :=
  if digitLegal d0 && digitLegal d1 && digitLegal d2 then .group (dpdEnc d0 d1 d2)
  else raise (.illegalOperand .digit)

/-- The response of DPDDEC (R69): a read of `ROM_DPD`. -/
def dpddecResponse (rom : Vector Triplet 1024) (g : Group) : Response := .triplet (romRead rom g)

/-- DPDENC (R68). -/
def execDpdenc (d0 d1 d2 : Digit) (s : State) : Host.Outcome State Fault Refusal :=
  .next (s.deliver (dpdencResponse d0 d1 d2))

/-- DPDDEC (R69). -/
def execDpddec (g : Group) (s : State) : Host.Outcome State Fault Refusal :=
  .next (s.deliver (dpddecResponse s.romDpd g))

/-! ### Coefficient-wide chains -/

/-- The number of DPD groups of a format, `n = (p - 1) / 3` (30_encoding.md R55). -/
def groupCount (F : Descriptor) : Nat := (F.coefficientDigits - 1) / 3

/-- The DPD group of the digits of weights `10^(p-2-3j)`, `10^(p-3-3j)`, `10^(p-4-3j)` (30_encoding.md R55). -/
def groupOfDigits (p c j : Nat) : Group :=
  dpdEnc (digitField c (p - 2 - 3 * j)) (digitField c (p - 3 - 3 * j)) (digitField c (p - 4 - 3 * j))

/-- `CoefEnc(F, c)`: the most significant digit and the coefficient continuation (R72). -/
def coefEnc (F : Descriptor) (c : Nat) : Nat × Nat :=
  (digit c (F.coefficientDigits - 1),
    (List.range (groupCount F)).foldl (fun cc j => cc * 1024 + (groupOfDigits F.coefficientDigits c j).toNat) 0)

/-- `GRP[j] = CC[10(n-j)-1 : 10(n-j-1)]` (30_encoding.md R55). -/
def groupAt (n cc j : Nat) : Group := BitVec.ofNat 10 (slice cc (10 * (n - j) - 1) (10 * (n - j - 1)))

/-- `CoefDec(F, MSD, CC)` (R73). -/
def coefDec (F : Descriptor) (rom : Vector Triplet 1024) (msd cc : Nat) : Nat :=
  (List.range (groupCount F)).foldl
    (fun c j => c * 1000 + tripletValue (romRead rom (groupAt (groupCount F) cc j))) msd

end Sys2Proof.Machine
end

