-- ==== Sys2Proof/Machine/Format.lean ====
section
/-! DEFINITION. The Format Descriptor operations (42_format_descriptor.md): FMTQ, BIASEXP, COEFCHK, LENCHK. -/

namespace Sys2Proof.Machine

/-- The response of FMTQ (R86). -/
def fmtqResponse (F : Descriptor) : Response := .descriptor F

/-- The response of BIASEXP (R87): exact and not range-checked. -/
def biasexpResponse (F : Descriptor) (e : Int) : Response := .int (biased F e)

/-- The response of COEFCHK (R88). -/
def coefchkResponse (F : Descriptor) (u : Int) : Response := .bool (coefficientInRange F u)

/-- The length check LENCHK and DECODE share (R89, 44_binary_codec.md R110): the fault of a wrong length. -/
def lengthFault (F : Descriptor) (bs : ByteString) : Option FaultInfo :=
  if bs.len.toNat ≠ F.byteLength then some (.lengthError bs.len.toNat F.byteLength) else none

/-- The response of LENCHK (R89). -/
def lenchkResponse (F : Descriptor) (bs : ByteString) : Response :=
  match lengthFault F bs with
  | some f => raise f
  | none => .pass

/-- FMTQ.D32 (R86). -/
def execFmtqD32 (s : State) : Host.Outcome State Fault Refusal :=
  .next (s.deliver (fmtqResponse (s.descriptor .d32)))

/-- FMTQ.D64 (R86). -/
def execFmtqD64 (s : State) : Host.Outcome State Fault Refusal :=
  .next (s.deliver (fmtqResponse (s.descriptor .d64)))

/-- FMTQ.D128 (R86). -/
def execFmtqD128 (s : State) : Host.Outcome State Fault Refusal :=
  .next (s.deliver (fmtqResponse (s.descriptor .d128)))

/-- BIASEXP.D32 (R87). -/
def execBiasexpD32 (e : Int) (s : State) : Host.Outcome State Fault Refusal :=
  .next (s.deliver (biasexpResponse (s.descriptor .d32) e))

/-- BIASEXP.D64 (R87). -/
def execBiasexpD64 (e : Int) (s : State) : Host.Outcome State Fault Refusal :=
  .next (s.deliver (biasexpResponse (s.descriptor .d64) e))

/-- BIASEXP.D128 (R87). -/
def execBiasexpD128 (e : Int) (s : State) : Host.Outcome State Fault Refusal :=
  .next (s.deliver (biasexpResponse (s.descriptor .d128) e))

/-- COEFCHK.D32 (R88). -/
def execCoefchkD32 (u : Int) (s : State) : Host.Outcome State Fault Refusal :=
  .next (s.deliver (coefchkResponse (s.descriptor .d32) u))

/-- COEFCHK.D64 (R88). -/
def execCoefchkD64 (u : Int) (s : State) : Host.Outcome State Fault Refusal :=
  .next (s.deliver (coefchkResponse (s.descriptor .d64) u))

/-- COEFCHK.D128 (R88). -/
def execCoefchkD128 (u : Int) (s : State) : Host.Outcome State Fault Refusal :=
  .next (s.deliver (coefchkResponse (s.descriptor .d128) u))

/-- LENCHK.D32 (R89). -/
def execLenchkD32 (bs : ByteString) (s : State) : Host.Outcome State Fault Refusal :=
  .next (s.deliver (lenchkResponse (s.descriptor .d32) bs))

/-- LENCHK.D64 (R89). -/
def execLenchkD64 (bs : ByteString) (s : State) : Host.Outcome State Fault Refusal :=
  .next (s.deliver (lenchkResponse (s.descriptor .d64) bs))

/-- LENCHK.D128 (R89). -/
def execLenchkD128 (bs : ByteString) (s : State) : Host.Outcome State Fault Refusal :=
  .next (s.deliver (lenchkResponse (s.descriptor .d128) bs))

end Sys2Proof.Machine
end

