-- ==== Sys2Proof/Machine/Codec.lean ====
section
/-! DEFINITION. The binary codec (44_binary_codec.md): DECODE and ENCODE over the wire words of 30_encoding.md section 2. -/

namespace Sys2Proof.Machine

/-! ### The word's fields (30_encoding.md R50) -/

/-- `S = W[T-1]`. -/
def wordSign (F : Descriptor) (W : Nat) : Sign :=
  Sign.ofBit (BitVec.ofNat 1 (slice W (F.totalBits - 1) (F.totalBits - 1)))

/-- `G = W[T-2 : T-6]`. -/
def wordCombination (F : Descriptor) (W : Nat) : BitVec 5 :=
  BitVec.ofNat 5 (slice W (F.totalBits - 2) (F.totalBits - 6))

/-- Stream bit 6, `W[T-7]` (R53). -/
def wordBit6 (F : Descriptor) (W : Nat) : Nat := slice W (F.totalBits - 7) (F.totalBits - 7)

/-- `X = W[T-7 : C]`. -/
def wordExponent (F : Descriptor) (W : Nat) : Nat := slice W (F.totalBits - 7) F.coefficientContinuationBits

/-- `CC = W[C-1 : 0]`. -/
def wordCoefficient (F : Descriptor) (W : Nat) : Nat := slice W (F.coefficientContinuationBits - 1) 0

/-- `s ∥ G ∥ X ∥ CC` (R117). -/
def joinWord (F : Descriptor) (s : Sign) (G : BitVec 5) (x cc : Nat) : Nat :=
  ((s.code.toNat * 2 ^ 5 + G.toNat) * 2 ^ F.exponentContinuationBits + x) * 2 ^ F.coefficientContinuationBits + cc

/-! ### DECODE -/

/-- The finite value of a word (R113 to R115). -/
def decodeFinite (F : Descriptor) (rom : Vector Triplet 1024) (W : Nat) : DecimalValue :=
  let emMsd := splitCombination (wordCombination F W)
  finiteValue (wordSign F W)
    (coefDec F rom emMsd.2 (wordCoefficient F W))
    ((emMsd.1 * 2 ^ F.exponentContinuationBits + wordExponent F W : Nat) - (F.exponentBias : Int))

/-- The value of a word (R111 to R116). -/
def decodeWord (F : Descriptor) (rom : Vector Triplet 1024) (W : Nat) : DecimalValue :=
  if wordCombination F W = 0b11110 then specialValue (wordSign F W) .infinity
  else if wordCombination F W = 0b11111 then
    if wordBit6 F W = 0 then specialValue (wordSign F W) .nan else specialValue (wordSign F W) .signalingNan
  else decodeFinite F rom W

/-- The response of DECODE (R116): the length is tested before any data byte is read (R110). -/
def decodeResponse (F : Descriptor) (rom : Vector Triplet 1024) (bs : ByteString) : Response :=
  match lengthFault F bs with
  | some f => raise f
  | none => .value (decodeWord F rom (wordOf F.byteLength bs))

/-! ### ENCODE -/

/-- The word of a valid finite value (R117). -/
def encodeFinite (F : Descriptor) (s : Sign) (c : Nat) (e : Int) : Nat :=
  let be := (biased F e).toNat
  let msdCc := coefEnc F c
  joinWord F s (joinCombination (be / 2 ^ F.exponentContinuationBits) msdCc.1)
    (be % 2 ^ F.exponentContinuationBits) msdCc.2

/-- The 6-bit tag that follows the sign of a special value (R118); a finite value has none. -/
def specialTag : Kind → Nat
  | .infinity => 0b111100
  | .nan => 0b111110
  | .signalingNan => 0b111111
  | .finite => 0

/-- The word of a special value: sign and tag, "all other bits are zero" (R118). -/
def encodeSpecial (F : Descriptor) (s : Sign) (k : Kind) : Nat :=
  (s.code.toNat * 2 ^ 6 + specialTag k) * 2 ^ (F.totalBits - 7)

/-- The response of ENCODE (R119): validated as by VALIDATE (R120). -/
def encodeResponse (F : Descriptor) (v : DecimalValue) : Response :=
  if v.kind = .finite then
    match overflowOf F v.coefficient v.exponent with
    | some o => raise (.overflowError o)
    | none => .bytes (bytesOf F.byteLength (encodeFinite F v.sign v.coefficient v.exponent))
  else .bytes (bytesOf F.byteLength (encodeSpecial F v.sign v.kind))

/-- DECODE.D32 (R116). -/
def execDecodeD32 (bs : ByteString) (s : State) : Host.Outcome State Fault Refusal :=
  .next (s.deliver (decodeResponse (s.descriptor .d32) s.romDpd bs))

/-- DECODE.D64 (R116). -/
def execDecodeD64 (bs : ByteString) (s : State) : Host.Outcome State Fault Refusal :=
  .next (s.deliver (decodeResponse (s.descriptor .d64) s.romDpd bs))

/-- DECODE.D128 (R116). -/
def execDecodeD128 (bs : ByteString) (s : State) : Host.Outcome State Fault Refusal :=
  .next (s.deliver (decodeResponse (s.descriptor .d128) s.romDpd bs))

/-- ENCODE.D32 (R119). -/
def execEncodeD32 (v : DecimalValue) (s : State) : Host.Outcome State Fault Refusal :=
  .next (s.deliver (encodeResponse (s.descriptor .d32) v))

/-- ENCODE.D64 (R119). -/
def execEncodeD64 (v : DecimalValue) (s : State) : Host.Outcome State Fault Refusal :=
  .next (s.deliver (encodeResponse (s.descriptor .d64) v))

/-- ENCODE.D128 (R119). -/
def execEncodeD128 (v : DecimalValue) (s : State) : Host.Outcome State Fault Refusal :=
  .next (s.deliver (encodeResponse (s.descriptor .d128) v))

end Sys2Proof.Machine
end

