-- ==== Sys2Proof/Machine/Engine.lean ====
section
/-! DEFINITION. The Rescale/Round Engine (43_rescale_round.md): RESCALE, ROUND, VALIDATE. Powers of ten are formed only where R108 says
they are needed, so that the definitions evaluate on every operand; the obligations state the results by the rules' own unshortened formulas. -/

namespace Sys2Proof.Machine

/-! ### Round-half-even -/

/-- The integer nearest to `c / 10^k`, ties to even (R92), for `k ≥ 1`. -/
def roundHalfEven (c k : Nat) : Nat :=
  let q := c / 10 ^ k
  let r := c % 10 ^ k
  let h := 10 ^ k / 2
  if h < r then q + 1
  else if r = h ∧ q % 2 = 1 then q + 1
  else q

/-- `RHE(c, k)` (R92); `RHE(c, k) = 0` for `k > digits(c)` (R108). -/
def rhe (c k : Nat) : Nat :=
  if k = 0 then c else if digits c < k then 0 else roundHalfEven c k

/-- The loop of `RHE_serial` (R93): quotient, guard digit and sticky flag after `k` digits have been dropped. -/
def dropDigits : Nat → Nat × Nat × Bool → Nat × Nat × Bool
  | 0, t => t
  | k + 1, (q, guard, sticky) => dropDigits k (q / 10, q % 10, sticky || decide (guard ≠ 0))

/-- `RHE_serial(c, k)` (R93): the digit-serial datapath, equal to `RHE` (stated as an obligation). -/
def rheSerial (c k : Nat) : Nat :=
  let (q, guard, sticky) := dropDigits k (c, 0, false)
  if 5 < guard ∨ (guard = 5 ∧ (sticky = true ∨ q % 2 = 1)) then q + 1 else q

/-! ### RESCALE -/

/-- `c` without `k` trailing zeros, if it has them (R94, R97); a nonzero `c` has fewer than `digits(c)` (R108). -/
def stripZeros (c k : Nat) : Option Nat :=
  if c = 0 then some 0
  else if digits c ≤ k then none
  else if c % 10 ^ k = 0 then some (c / 10 ^ k)
  else none

/-- `c` with `k` zeros appended, if it then still has at most `p` digits; zero absorbs any number (R95, R97). -/
def appendZeros (p c k : Nat) : Option Nat :=
  if c = 0 then some 0
  else if digits c + k ≤ p then some (c * 10 ^ k)
  else none

/-- The smallest legal exponent, `-B` (42_format_descriptor.md R85). -/
def minExponent (F : Descriptor) : Int := -(F.exponentBias : Int)

/-- The largest legal exponent, `eLimit - B` (42_format_descriptor.md R85). -/
def maxExponent (F : Descriptor) : Int := (F.maxBiasedExponent : Int) - F.exponentBias

/-- The exponent-too-high case RESCALE and ROUND share (R95, R99): the value is unchanged where the digits do not fit. -/
def lowerExponent (F : Descriptor) (c : Nat) (e : Int) : Nat × Int :=
  match appendZeros F.coefficientDigits c (biased F e - F.maxBiasedExponent).toNat with
  | some c' => (c', maxExponent F)
  | none => (c, e)

/-- `Rescale(F, (s, c, e))` (R94 to R97). -/
def rescaleFinite (F : Descriptor) (c : Nat) (e : Int) : Nat × Int :=
  if biased F e < 0 then
    match stripZeros c (-biased F e).toNat with
    | some c' => (c', minExponent F)
    | none => (c, e)
  else if F.maxBiasedExponent < biased F e then lowerExponent F c e
  else (c, e)

/-- RESCALE's result (R97, R104). -/
def rescaleValue (F : Descriptor) (v : DecimalValue) : DecimalValue :=
  if v.kind = .finite then
    finiteValue v.sign (rescaleFinite F v.coefficient v.exponent).1 (rescaleFinite F v.coefficient v.exponent).2
  else canon v

/-! ### ROUND -/

/-- Step 1, precision (R98; 90_conflicts.md C12). -/
def roundPrecision (p c : Nat) (e : Int) : Nat × Int :=
  if p < digits c then
    let d := digits c - p
    if rhe c d = 10 ^ p then (10 ^ (p - 1), e + d + 1) else (rhe c d, e + d)
  else (c, e)

/-- Step 2, exponent (R99). -/
def roundExponent (F : Descriptor) (c : Nat) (e : Int) : Nat × Int :=
  if biased F e < 0 then (rhe c (-biased F e).toNat, minExponent F)
  else if F.maxBiasedExponent < biased F e then lowerExponent F c e
  else (c, e)

/-- Steps 1 and 2. -/
def roundFinite (F : Descriptor) (c : Nat) (e : Int) : Nat × Int :=
  roundExponent F (roundPrecision F.coefficientDigits c e).1 (roundPrecision F.coefficientDigits c e).2

/-- ROUND's result, with step 3, saturation (R100, R101, R104). -/
def roundValue (F : Descriptor) (v : DecimalValue) : DecimalValue :=
  if v.kind = .finite then
    let ce := roundFinite F v.coefficient v.exponent
    if F.maxBiasedExponent < biased F ce.2 then specialValue v.sign .infinity
    else finiteValue v.sign ce.1 ce.2
  else canon v

/-! ### VALIDATE -/

/-- The response of VALIDATE (R103, R104). -/
def validateResponse (F : Descriptor) (v : DecimalValue) : Response :=
  if v.kind = .finite then
    match overflowOf F v.coefficient v.exponent with
    | some o => raise (.overflowError o)
    | none => .pass
  else .pass

/-- The response of RESCALE (R97). -/
def rescaleResponse (F : Descriptor) (v : DecimalValue) : Response := .value (rescaleValue F v)

/-- The response of ROUND (R101). -/
def roundResponse (F : Descriptor) (v : DecimalValue) : Response := .value (roundValue F v)

/-- RESCALE.D32 (R97). -/
def execRescaleD32 (v : DecimalValue) (s : State) : Host.Outcome State Fault Refusal :=
  .next (s.deliver (rescaleResponse (s.descriptor .d32) v))

/-- RESCALE.D64 (R97). -/
def execRescaleD64 (v : DecimalValue) (s : State) : Host.Outcome State Fault Refusal :=
  .next (s.deliver (rescaleResponse (s.descriptor .d64) v))

/-- RESCALE.D128 (R97). -/
def execRescaleD128 (v : DecimalValue) (s : State) : Host.Outcome State Fault Refusal :=
  .next (s.deliver (rescaleResponse (s.descriptor .d128) v))

/-- ROUND.D32 (R101). -/
def execRoundD32 (v : DecimalValue) (s : State) : Host.Outcome State Fault Refusal :=
  .next (s.deliver (roundResponse (s.descriptor .d32) v))

/-- ROUND.D64 (R101). -/
def execRoundD64 (v : DecimalValue) (s : State) : Host.Outcome State Fault Refusal :=
  .next (s.deliver (roundResponse (s.descriptor .d64) v))

/-- ROUND.D128 (R101). -/
def execRoundD128 (v : DecimalValue) (s : State) : Host.Outcome State Fault Refusal :=
  .next (s.deliver (roundResponse (s.descriptor .d128) v))

/-- VALIDATE.D32 (R103). -/
def execValidateD32 (v : DecimalValue) (s : State) : Host.Outcome State Fault Refusal :=
  .next (s.deliver (validateResponse (s.descriptor .d32) v))

/-- VALIDATE.D64 (R103). -/
def execValidateD64 (v : DecimalValue) (s : State) : Host.Outcome State Fault Refusal :=
  .next (s.deliver (validateResponse (s.descriptor .d64) v))

/-- VALIDATE.D128 (R103). -/
def execValidateD128 (v : DecimalValue) (s : State) : Host.Outcome State Fault Refusal :=
  .next (s.deliver (validateResponse (s.descriptor .d128) v))

end Sys2Proof.Machine
end

