-- ==== Sys2Proof/Machine/ValueOps.lean ====
section
/-! DEFINITION. The value operations (45_value_ops.md): FROMAPD, TOAPD, NEG. -/

namespace Sys2Proof.Machine

/-- The response of FROMAPD (R126): a zero is POSITIVE. -/
def fromapdResponse (P : Params) (a : Apd) : Response :=
  if magnitudeTooWide P a.u then raise (.illegalOperand .apdMagnitude)
  else .value (finiteValue (if a.u < 0 then .negative else .positive) a.u.natAbs a.x)

/-- The signed coefficient of a finite value. -/
def signedCoefficient (v : DecimalValue) : Int :=
  match v.sign with
  | .positive => v.coefficient
  | .negative => -(v.coefficient : Int)

/-- The response of TOAPD (R127). -/
def toapdResponse (v : DecimalValue) : Response :=
  if v.kind = .finite then .apd { u := signedCoefficient v, x := v.exponent }
  else raise (.inconvertibleValue v.kind v.sign)

/-- NEG's result (R128): a special value's unused fields are cleared (10_state.md R19). -/
def negValue (v : DecimalValue) : DecimalValue := canon { v with sign := flipSign v.sign }

/-- The response of NEG (R128). -/
def negResponse (v : DecimalValue) : Response := .value (negValue v)

/-- FROMAPD (R126). -/
def execFromapd (a : Apd) (s : State) : Host.Outcome State Fault Refusal :=
  .next (s.deliver (fromapdResponse s.params a))

/-- TOAPD (R127). -/
def execToapd (v : DecimalValue) (s : State) : Host.Outcome State Fault Refusal :=
  .next (s.deliver (toapdResponse v))

/-- NEG (R128). -/
def execNeg (v : DecimalValue) (s : State) : Host.Outcome State Fault Refusal :=
  .next (s.deliver (negResponse v))

end Sys2Proof.Machine
end

