-- ==== Sys2Proof/Machine/Dispatch.lean ====
section
/-! DEFINITION. The dispatch of 30_encoding.md R46: one arm per row of the opcode table. -/

namespace Sys2Proof.Machine

/-- The meaning of each instruction: the transaction being served is answered. -/
def exec (i : Instr) (s : State) : Host.Outcome State Fault Refusal :=
  match i with
  | .dpdenc d0 d1 d2 => Sys2Proof.Machine.execDpdenc d0 d1 d2 s
  | .dpddec g => Sys2Proof.Machine.execDpddec g s
  | .fmtqD32 => Sys2Proof.Machine.execFmtqD32 s
  | .biasexpD32 e => Sys2Proof.Machine.execBiasexpD32 e s
  | .coefchkD32 u => Sys2Proof.Machine.execCoefchkD32 u s
  | .lenchkD32 bs => Sys2Proof.Machine.execLenchkD32 bs s
  | .rescaleD32 v => Sys2Proof.Machine.execRescaleD32 v s
  | .roundD32 v => Sys2Proof.Machine.execRoundD32 v s
  | .validateD32 v => Sys2Proof.Machine.execValidateD32 v s
  | .decodeD32 bs => Sys2Proof.Machine.execDecodeD32 bs s
  | .encodeD32 v => Sys2Proof.Machine.execEncodeD32 v s
  | .fromapd a => Sys2Proof.Machine.execFromapd a s
  | .toapd v => Sys2Proof.Machine.execToapd v s
  | .neg v => Sys2Proof.Machine.execNeg v s
  | .fmtqD64 => Sys2Proof.Machine.execFmtqD64 s
  | .biasexpD64 e => Sys2Proof.Machine.execBiasexpD64 e s
  | .coefchkD64 u => Sys2Proof.Machine.execCoefchkD64 u s
  | .lenchkD64 bs => Sys2Proof.Machine.execLenchkD64 bs s
  | .rescaleD64 v => Sys2Proof.Machine.execRescaleD64 v s
  | .roundD64 v => Sys2Proof.Machine.execRoundD64 v s
  | .validateD64 v => Sys2Proof.Machine.execValidateD64 v s
  | .decodeD64 bs => Sys2Proof.Machine.execDecodeD64 bs s
  | .encodeD64 v => Sys2Proof.Machine.execEncodeD64 v s
  | .fmtqD128 => Sys2Proof.Machine.execFmtqD128 s
  | .biasexpD128 e => Sys2Proof.Machine.execBiasexpD128 e s
  | .coefchkD128 u => Sys2Proof.Machine.execCoefchkD128 u s
  | .lenchkD128 bs => Sys2Proof.Machine.execLenchkD128 bs s
  | .rescaleD128 v => Sys2Proof.Machine.execRescaleD128 v s
  | .roundD128 v => Sys2Proof.Machine.execRoundD128 v s
  | .validateD128 v => Sys2Proof.Machine.execValidateD128 v s
  | .decodeD128 bs => Sys2Proof.Machine.execDecodeD128 bs s
  | .encodeD128 v => Sys2Proof.Machine.execEncodeD128 v s

end Sys2Proof.Machine
end

