-- ==== Sys2Proof/Machine/Step.lean ====
section
/-! DEFINITION. One step of the machine: one port server answers the oldest unanswered request of its port (10_state.md R30). -/

namespace Sys2Proof.Machine

/-- The host presents the request of one opcode-table word (log entry 1): the one that the very next step serves. -/
def State.withFetchWord (s : State) (nbits w : Nat) : State := s.withRequestWord (w % 2 ^ nbits)

/-- `rsp = Exec(req)` for the request being served (10_state.md R21, 30_encoding.md R48). "No agent of DJCU acts without a
request" (R30): with no request at any port the state stays as it is (log entry 2). -/
def step (s : State) : Host.Outcome State Fault Refusal :=
  match s.fetch with
  | none => .next s
  | some (_, .ok i) => exec i s
  | some (r, .error _) => execIllegal r.cmd s

end Sys2Proof.Machine
end

