-- ==== Sys2Proof/Machine/HostPort.lean ====
section
/-! DEFINITION. What the host can do to the unit (70_reset_and_hazards.md R159): present a request, take a response, assert reset; and what the
response to one request is, whatever else is in flight (10_state.md R21). -/

namespace Sys2Proof.Machine

/-- The host presents a request on port `k` (10_state.md R21, R30): it is answered after the port's earlier ones. A port that does not exist
takes nothing (log entry 14). -/
def State.present (s : State) (k : Nat) (r : Request) : State :=
  { s with ports := s.ports.modify k fun p => { p with requests := p.requests ++ [r] } }

/-- The host takes the oldest response of port `k` (00_scope.md R8, 20_memory.md R39): the response, if there is one, and the state after. -/
def State.collect (s : State) (k : Nat) : Option PortResponse × State :=
  ((s.ports[k]?).bind fun p => p.responses.head?,
    { s with ports := s.ports.modify k fun p => { p with responses := p.responses.tail } })

/-- Reset asserted in any state (70_reset_and_hazards.md R151, R152, R163): requests in flight get no response, the tables
hold their constants; the configuration stays (log entry 11). -/
def State.applyReset (s : State) : State := State.afterReset s.params

/-- How many requests of all ports await a response. -/
def State.pendingCount (s : State) : Nat := (s.ports.map fun p => p.requests.length).sum

/-- A unit with the tables and parameters of `s`, one port, and `r` the one request in flight. -/
def State.alone (s : State) (r : Request) : State :=
  { s with ports := [{ requests := [r], responses := [] }], turn := 0 }

/-- `Exec(req)` (10_state.md R21): the response bits one step gives to a request presented alone. -/
def State.transact (s : State) (r : Request) : Option PortResponse :=
  match step (s.alone r) with
  | .next t => (t.ports[0]?).bind fun p => p.responses.head?
  | .fault _ => none
  | .refused _ => none

/-- The response to an instruction, as the host reads it. -/
def State.ask (s : State) (i : Instr) : Option Response :=
  (s.transact (encode s.params i)).bind fun r => r.read s.params

end Sys2Proof.Machine
end

