-- ==== Sys2Proof/Machine/Macros.lean ====
section
/-! DEFINITION. The host's transaction sequences (30_encoding.md R60, 70_reset_and_hazards.md R157): "the host feeds the `Value` or `Bytes` of one
response into the next request and stops at the first `Fault`, which becomes the result of the macro". -/

namespace Sys2Proof.Machine

/-- The next transaction of a sequence takes the value of the last response; a fault ends the sequence. -/
def thenValue (r : Option Response) (next : DecimalValue → Option Response) : Option Response :=
  match r with
  | some (.value v) => next v
  | other => other

/-- The next transaction of a sequence follows a `Pass`; a fault ends the sequence. -/
def thenPass (r : Option Response) (next : Option Response) : Option Response :=
  match r with
  | some .pass => next
  | other => other

/-- `TOBYTES.X.f v`: RESCALE, VALIDATE, ENCODE (R60). -/
def State.tobytesExact (s : State) (f : Fmt) (v : DecimalValue) : Option Response :=
  thenValue (s.ask (Instr.rescale f v)) fun v1 =>
    thenPass (s.ask (Instr.validate f v1)) (s.ask (Instr.encode f v1))

/-- `TOBYTES.R.f v`: ROUND, ENCODE (R60). -/
def State.tobytesRound (s : State) (f : Fmt) (v : DecimalValue) : Option Response :=
  thenValue (s.ask (Instr.round f v)) fun v1 => s.ask (Instr.encode f v1)

/-- `FROMBYTES.f bs`: DECODE (R60). -/
def State.frombytes (s : State) (f : Fmt) (bs : ByteString) : Option Response := s.ask (Instr.decode f bs)

/-- The fallback sequence (70_reset_and_hazards.md R157): exact first and, on `OverflowError`, rounding from the original value. -/
def State.tobytesFallback (s : State) (f : Fmt) (v : DecimalValue) : Option Response :=
  match s.tobytesExact f v with
  | some (.fault (.overflowError _)) => s.tobytesRound f v
  | other => other

end Sys2Proof.Machine
end

