-- ==== Sys2Proof/Safety.lean ====
section
/-! DEFINITION. What counts as a good state, in the terms the obligations use. -/

namespace Sys2Proof.Machine

/-- The constant tables hold their constants (70_reset_and_hazards.md R151, R153). -/
structure State.TablesReady (s : State) : Prop where
  fmt : s.romFmt = romFmtContents
  dpd : s.romDpd = romDpdContents

/-- The bit patterns of a value fit their wires (10_state.md R18). -/
def fieldFits (P : Params) (b : ValueField) : Prop := b.coefficient < 2 ^ P.coefw ∧ b.exponent < 2 ^ P.expw

/-- The bit patterns of an APD record fit their wires (10_state.md R25). -/
def apdFieldFits (P : Params) (b : ApdField) : Prop := b.u < 2 ^ (P.coefw + 1) ∧ b.x < 2 ^ P.expw

/-- The bit patterns of a request fit their wires (10_state.md R18, R22, R25). -/
structure requestFits (P : Params) (r : Request) : Prop where
  e : r.payload.e < 2 ^ P.expw
  u : r.payload.u < 2 ^ (P.coefw + 1)
  val : fieldFits P r.payload.val
  apd : apdFieldFits P r.payload.apd

/-- The bit patterns of a fault's value fit their wires (60_exceptions.md R138). -/
def infoFits (P : Params) : InfoField → Prop
  | .overflow which value => if which = 0 then value < 2 ^ P.expw else value < 2 ^ P.coefw
  | .none => True
  | .lengths _ _ => True
  | .special _ _ => True
  | .command _ => True
  | .reason _ => True

/-- The bit patterns of a response fit their wires (10_state.md R18, R23, R25, R26). -/
def responseFits (P : Params) : PortResponse → Prop
  | .descriptor D => D.maxCoefficient < 2 ^ P.coefw
  | .int n => n < 2 ^ (P.expw + 1)
  | .value v => fieldFits P v
  | .apd a => apdFieldFits P a
  | .fault _ info => infoFits P info
  | .group _ => True
  | .triplet _ _ _ => True
  | .bool _ => True
  | .pass => True
  | .bytes _ => True

/-- The invariant: legal parameters, complete tables, `NPORTS` ports, whose turn it is names a port, and every record at a port
fits its wires. -/
structure State.Inv (s : State) : Prop where
  legal : s.params.Legal
  tables : s.TablesReady
  portCount : s.ports.length = s.params.nports
  turn : s.turn < s.params.nports
  requests : ∀ p ∈ s.ports, ∀ r ∈ p.requests, requestFits s.params r
  responses : ∀ p ∈ s.ports, ∀ r ∈ p.responses, responseFits s.params r

/-- The number a finite value denotes, `sign * coefficient * 10^exponent` (10_state.md R17 (c)). -/
def denotes (v : DecimalValue) : ℚ := (signedCoefficient v : ℚ) * 10 ^ v.exponent

/-- The constants of 42_format_descriptor.md R85, written out from its table (the model derives them: `formatConstants`). -/
def descriptorTable : Fmt → Descriptor
  | .d32 =>
    { totalBits := 32, coefficientDigits := 7, exponentContinuationBits := 6, coefficientContinuationBits := 20
      exponentBias := 101, maxBiasedExponent := 191, eMin := -95, eMax := 96, maxCoefficient := 9999999, byteLength := 4 }
  | .d64 =>
    { totalBits := 64, coefficientDigits := 16, exponentContinuationBits := 8, coefficientContinuationBits := 50
      exponentBias := 398, maxBiasedExponent := 767, eMin := -383, eMax := 384, maxCoefficient := 9999999999999999
      byteLength := 8 }
  | .d128 =>
    { totalBits := 128, coefficientDigits := 34, exponentContinuationBits := 12, coefficientContinuationBits := 110
      exponentBias := 6176, maxBiasedExponent := 12287, eMin := -6143, eMax := 6144
      maxCoefficient := 9999999999999999999999999999999999, byteLength := 16 }

/-- The number of DPD groups of each format (42_format_descriptor.md R85). -/
def groupTable : Fmt → Nat
  | .d32 => 2
  | .d64 => 5
  | .d128 => 11

/-- The command byte is reserved (30_encoding.md R48): by its upper two bits, its format code, its operation number, or a format
code on a format-independent operation. -/
def illegalByte (cmd : BitVec 8) : Bool :=
  decide (cmd.toNat / 64 ≠ 0 ∨ cmd.toNat / 16 % 4 = 3 ∨ 14 ≤ cmd.toNat % 16 ∨
    (cmd.toNat % 16 ∈ [0x0, 0x1, 0xB, 0xC, 0xD] ∧ cmd.toNat / 16 % 4 ≠ 0))

/-- Two payloads agree on what the operation numbered `op` examines (10_state.md R22): LENCHK examines `bs.len` only, DECODE the
bytes below `bs.len` only (R24). -/
def samePayloadFor (op : Nat) (p q : Payload) : Prop :=
  match op with
  | 0x0 => p.d0 = q.d0 ∧ p.d1 = q.d1 ∧ p.d2 = q.d2
  | 0x1 => p.g = q.g
  | 0x2 => True
  | 0x3 => p.e = q.e
  | 0x4 => p.u = q.u
  | 0x5 => p.bs.len = q.bs.len
  | 0x9 => p.bs.len = q.bs.len ∧ ∀ (i : Nat) (h : i < 16), i < p.bs.len.toNat → p.bs.data[i] = q.bs.data[i]
  | 0xB => p.apd = q.apd
  | _ => p.val = q.val

/-- The codes of the faults each operation can raise (60_exceptions.md R142, R135). -/
def faultCodes : Instr → List (BitVec 3)
  | .dpdenc _ _ _ => [6]
  | .lenchkD32 _ | .lenchkD64 _ | .lenchkD128 _ => [1]
  | .validateD32 _ | .validateD64 _ | .validateD128 _ => [2]
  | .decodeD32 _ | .decodeD64 _ | .decodeD128 _ => [1]
  | .encodeD32 _ | .encodeD64 _ | .encodeD128 _ => [2]
  | .fromapd _ => [6]
  | .toapd _ => [3]
  | .dpddec _ | .neg _ => []
  | .fmtqD32 | .fmtqD64 | .fmtqD128 => []
  | .biasexpD32 _ | .biasexpD64 _ | .biasexpD128 _ => []
  | .coefchkD32 _ | .coefchkD64 _ | .coefchkD128 _ => []
  | .rescaleD32 _ | .rescaleD64 _ | .rescaleD128 _ => []
  | .roundD32 _ | .roundD64 _ | .roundD128 _ => []

/-- The response of each instruction as the rules give it, on mathematical integers, before it is put in the response's fields: what
`exec` delivers (10_state.md R21, R23). -/
def responseOf (s : State) : Instr → Response
  | .dpdenc d0 d1 d2 => dpdencResponse d0 d1 d2
  | .dpddec g => dpddecResponse s.romDpd g
  | .fmtqD32 => fmtqResponse (s.descriptor .d32)
  | .biasexpD32 e => biasexpResponse (s.descriptor .d32) e
  | .coefchkD32 u => coefchkResponse (s.descriptor .d32) u
  | .lenchkD32 bs => lenchkResponse (s.descriptor .d32) bs
  | .rescaleD32 v => rescaleResponse (s.descriptor .d32) v
  | .roundD32 v => roundResponse (s.descriptor .d32) v
  | .validateD32 v => validateResponse (s.descriptor .d32) v
  | .decodeD32 bs => decodeResponse (s.descriptor .d32) s.romDpd bs
  | .encodeD32 v => encodeResponse (s.descriptor .d32) v
  | .fromapd a => fromapdResponse s.params a
  | .toapd v => toapdResponse v
  | .neg v => negResponse v
  | .fmtqD64 => fmtqResponse (s.descriptor .d64)
  | .biasexpD64 e => biasexpResponse (s.descriptor .d64) e
  | .coefchkD64 u => coefchkResponse (s.descriptor .d64) u
  | .lenchkD64 bs => lenchkResponse (s.descriptor .d64) bs
  | .rescaleD64 v => rescaleResponse (s.descriptor .d64) v
  | .roundD64 v => roundResponse (s.descriptor .d64) v
  | .validateD64 v => validateResponse (s.descriptor .d64) v
  | .decodeD64 bs => decodeResponse (s.descriptor .d64) s.romDpd bs
  | .encodeD64 v => encodeResponse (s.descriptor .d64) v
  | .fmtqD128 => fmtqResponse (s.descriptor .d128)
  | .biasexpD128 e => biasexpResponse (s.descriptor .d128) e
  | .coefchkD128 u => coefchkResponse (s.descriptor .d128) u
  | .lenchkD128 bs => lenchkResponse (s.descriptor .d128) bs
  | .rescaleD128 v => rescaleResponse (s.descriptor .d128) v
  | .roundD128 v => roundResponse (s.descriptor .d128) v
  | .validateD128 v => validateResponse (s.descriptor .d128) v
  | .decodeD128 bs => decodeResponse (s.descriptor .d128) s.romDpd bs
  | .encodeD128 v => encodeResponse (s.descriptor .d128) v

/-- The DPD code is one of the 24 redundant ones (40_dpd_codec.md R70). -/
def redundantGroup (g : Group) : Bool := decide (g &&& 0x06E = 0x06E ∧ g &&& 0x300 ≠ 0)

/-- The canonical code of the same triplet (40_dpd_codec.md R71 (b)). -/
def canonicalGroup (g : Group) : Group := if redundantGroup g then g &&& 0x0FF else g

/-- `GRP[j]` of a word: the `j`-th group from the most significant of `n` (30_encoding.md R55). -/
def groupOfWord (n W j : Nat) : Group := BitVec.ofNat 10 (W / 2 ^ (10 * (n - 1 - j)))

/-- A finite value that `Validate` passes (43_rescale_round.md R102). -/
def ValidValue (F : Descriptor) (v : DecimalValue) : Prop :=
  v.kind = .finite ∧ validFor F v.coefficient v.exponent = true

/-- A value in canonical form: finite, or special with its unused fields zero (10_state.md R19). -/
def Canonical (v : DecimalValue) : Prop := v.kind = .finite ∨ (v.coefficient = 0 ∧ v.exponent = 0)

end Sys2Proof.Machine
end

