-- ==== Sys2Proof/Certificates/Slice0/Obligations.lean ====
section
/-! DEFINITION. The statements for the provers: one `Obligations.<Name> : Prop` each, listed in OBLIGATIONS.json. Results are stated as
`exec i s = .next (s.deliver r)`; `Obligations.DeliverAnswersOldest` says what delivering `r` does to every part of the state. -/

open Sys2Proof Sys2Proof.Machine

/-! ### Encoding -/

/-- Command bytes written out from 30_encoding.md R61, at least one of every family, decode to the operations they stand for; some
reserved ones decode to nothing. -/
def Obligations.CommandWordsDecode : Prop :=
  decodeTableWord 8 0b00000000 = some (.dpdenc 0 0 0) ∧
  decodeTableWord 8 0b00000001 = some (.dpddec 0) ∧
  decodeTableWord 8 0b00010010 = some .fmtqD64 ∧
  decodeTableWord 8 0b00100011 = some (.biasexpD128 0) ∧
  decodeTableWord 8 0b00000110 = some (.rescaleD32 (finiteValue .positive 0 0)) ∧
  decodeTableWord 8 0b00010111 = some (.roundD64 (finiteValue .positive 0 0)) ∧
  decodeTableWord 8 0b00101001 = some (.decodeD128 ByteString.zero) ∧
  decodeTableWord 8 0b00001010 = some (.encodeD32 (finiteValue .positive 0 0)) ∧
  decodeTableWord 8 0b00001101 = some (.neg (finiteValue .positive 0 0)) ∧
  decodeTableWord 8 0b00111010 = none ∧ decodeTableWord 8 0b00010000 = none ∧ decodeTableWord 8 0b01001010 = none

/-- Decode of encode: for every instruction, every operand its fields admit and every legal width. -/
def Obligations.DecodeEncodeRoundTrip : Prop :=
  ∀ (P : Params) (i : Instr), P.Legal → i.wellFormed P = true → decode P (encode P i) = .ok i

/-- R47: the 32 legal command bytes, whatever the payload; each decodes to an instruction of that byte. -/
def Obligations.LegalCommandBytes : Prop :=
  ∀ (P : Params) (cmd : BitVec 8) (p : Payload),
    ((∃ i, decode P { cmd := cmd, payload := p } = .ok i) ↔
      cmd.toNat ∈ [0x00, 0x01, 0x0B, 0x0C, 0x0D,
        0x02, 0x03, 0x04, 0x05, 0x06, 0x07, 0x08, 0x09, 0x0A,
        0x12, 0x13, 0x14, 0x15, 0x16, 0x17, 0x18, 0x19, 0x1A,
        0x22, 0x23, 0x24, 0x25, 0x26, 0x27, 0x28, 0x29, 0x2A]) ∧
    ∀ i, decode P { cmd := cmd, payload := p } = .ok i → i.commandByte = cmd

/-- R48: each of the 224 reserved bytes, whatever its payload, is answered `IllegalCommand(cmd)`. -/
def Obligations.IllegalCommandFaults : Prop :=
  ((List.range 256).filter fun n => illegalByte (BitVec.ofNat 8 n)).length = 224 ∧
  ∀ (s : State) (k : Nat) (r : Request), s.pick = some (k, r) → illegalByte r.cmd = true →
    step s = .next (s.deliver (.fault (.illegalCommand r.cmd)))

/-- R22: "fields not listed for an operation are not examined by it". -/
def Obligations.OnlyListedFieldsExamined : Prop :=
  ∀ (s : State) (cmd : BitVec 8) (p q : Payload), samePayloadFor (cmd.toNat % 16) p q →
    s.transact { cmd := cmd, payload := p } = s.transact { cmd := cmd, payload := q }

/-- R19: a special operand's coefficient and exponent are ignored by every operation that takes a value, and a special value in a response
has both zero (so it is one of six records). -/
def Obligations.SpecialFieldsIgnored : Prop :=
  (∀ (s : State) (f : Fmt) (v w : DecimalValue), v.kind ≠ .finite → w.kind = v.kind → w.sign = v.sign →
    exec (.rescale f v) s = exec (.rescale f w) s ∧ exec (.round f v) s = exec (.round f w) s ∧
    exec (.validate f v) s = exec (.validate f w) s ∧ exec (.encode f v) s = exec (.encode f w) s ∧
    exec (.toapd v) s = exec (.toapd w) s ∧ exec (.neg v) s = exec (.neg w) s) ∧
  ∀ (s : State) (i : Instr) (v : DecimalValue), s.ask i = some (.value v) → v.kind ≠ .finite →
    v = specialValue v.sign v.kind

/-! ### The step, its frame, its order -/

/-- A step runs the decoded instruction of the request being served; nothing is added around it. -/
def Obligations.StepRunsDecoded : Prop :=
  ∀ (s : State) (k : Nat) (r : Request) (i : Instr), s.pick = some (k, r) → decode s.params r = .ok i →
    step s = exec i s

/-- The model's choice (log entry 2, DEDUCED): a step finds nothing to serve exactly when no port has a request, and then changes nothing.
A request that is served is the oldest of its port. -/
def Obligations.IdleStepChangesNothing : Prop :=
  (∀ s : State, s.pick = none ↔ ∀ p ∈ s.ports, p.requests = []) ∧
  (∀ s : State, s.pick = none → step s = .next s) ∧
  ∀ (s : State) (k : Nat) (r : Request), s.pick = some (k, r) →
    ∃ p, s.ports[k]? = some p ∧ p.requests.head? = some r

/-- Nothing stops the machine, and every step with work answers exactly one request. That a step of a unit with no request is a next state too
is the model's reading (log entry 2, DEDUCED). -/
def Obligations.EveryStepAnswersOne : Prop :=
  ∀ s : State, ∃ t, step s = .next t ∧ (0 < s.pendingCount → t.pendingCount + 1 = s.pendingCount)

/-- What delivering a response does, to every part of the state: the request being served leaves its port, the response's bits follow
the port's earlier ones; other ports, tables and parameters are unchanged. The model's choices: with no request pending nothing changes (log entry 3), the turn passes
to the next port (log entry 4), an untaken response stays (log entry 5). -/
def Obligations.DeliverAnswersOldest : Prop :=
  (∀ (s : State) (r : Response), s.pick = none → s.deliver r = s) ∧
  ∀ (s : State) (r : Response) (k : Nat) (q : Request), s.pick = some (k, q) →
    (s.deliver r).params = s.params ∧ (s.deliver r).romFmt = s.romFmt ∧ (s.deliver r).romDpd = s.romDpd ∧
    (s.deliver r).turn = (k + 1) % s.ports.length ∧ (s.deliver r).ports.length = s.ports.length ∧
    (∀ j, j ≠ k → (s.deliver r).ports[j]? = s.ports[j]?) ∧
    ∃ p, s.ports[k]? = some p ∧ p.requests.head? = some q ∧
      (s.deliver r).ports[k]? = some { requests := p.requests.tail, responses := p.responses ++ [r.code s.params] }

/-- The frame of every instruction (all 32 constructors): it changes whose turn it is and the port served, there taking the oldest request
away and appending one response; everything else is as before. (DJCU has no memory, register or flag to frame.) The model's choices: with no
request pending `exec` leaves the state as it is (log entry 3, DESIGN CHOICE; no step reaches it), and untaken responses stay at their port
(log entry 5, DESIGN CHOICE). -/
def Obligations.TransactionFrame : Prop :=
  ∀ (i : Instr) (s t : State), exec i s = .next t →
    t.params = s.params ∧ t.romFmt = s.romFmt ∧ t.romDpd = s.romDpd ∧ t.ports.length = s.ports.length ∧
    (s.pick = none → t = s) ∧
    ∀ (k : Nat) (q : Request), s.pick = some (k, q) →
      (∀ j, j ≠ k → t.ports[j]? = s.ports[j]?) ∧
      ∃ p pr, s.ports[k]? = some p ∧ p.requests.head? = some q ∧
        t.ports[k]? = some { requests := p.requests.tail, responses := p.responses ++ [pr] }

/-- R90: no operation changes `ROM_FMT`; a format-dependent operation reads exactly the entry its format code selects (a
format-independent one reads none). -/
def Obligations.ReadsSelectedEntryOnly : Prop :=
  (∀ (i : Instr) (s t : State), exec i s = .next t → t.romFmt = s.romFmt) ∧
  ∀ (i : Instr) (s : State) (rom : Vector Descriptor 3),
    (∀ f, i.format = some f → rom[f.index] = s.romFmt[f.index]) →
    exec i s = .next (s.deliver (responseOf s i)) ∧
      exec i { s with romFmt := rom } = .next (State.deliver { s with romFmt := rom } (responseOf s i))

/-- R21: every request gets a response, which is a function of the request and the tables alone, and the transaction writes nothing else.
That it stands behind the port's untaken responses is the model's choice (log entry 5). -/
def Obligations.ResponseFunctionOfRequest : Prop :=
  (∀ (s : State) (k : Nat) (r : Request), s.pick = some (k, r) →
    ∃ t p pr, step s = .next t ∧ s.transact r = some pr ∧ s.ports[k]? = some p ∧
      t.ports[k]? = some { requests := p.requests.tail, responses := p.responses ++ [pr] } ∧
      t.romFmt = s.romFmt ∧ t.romDpd = s.romDpd ∧ t.params = s.params) ∧
  ∀ (s t : State) (r : Request), t.params = s.params → t.romFmt = s.romFmt → t.romDpd = s.romDpd →
    t.transact r = s.transact r

/-- After as many steps as requests await an answer, every port of every state has its responses, in request order and each the response
its request gets alone: order between ports and earlier traffic change nothing. That untaken responses stay at their port, any number of them,
is the model's choice (log entry 5, DESIGN CHOICE). -/
def Obligations.AllAnsweredInOrder : Prop :=
  ∀ s : State, ∃ t, core.run s.pendingCount s = .next t ∧ t.ports.length = s.ports.length ∧
    ∀ (k : Nat) (p : Port), s.ports[k]? = some p →
      ∃ prs : List PortResponse, p.requests.map s.transact = prs.map some ∧
        t.ports[k]? = some { requests := [], responses := p.responses ++ prs }

/-! ### The invariant, reset, the host's actions -/

/-- Every step keeps the invariant: complete tables, legal parameters, `NPORTS` ports, every record at a port within its wires. -/
def Obligations.StepKeepsInvariant : Prop :=
  ∀ s t : State, s.Inv → step s = .next t → t.Inv

/-- The host's actions keep it too. The model's choices: a port number that does not exist takes nothing (log entry 14); reset keeps the
parameters and drops untaken responses (log entry 11). -/
def Obligations.HostActionsKeepInvariant : Prop :=
  ∀ s : State, s.Inv →
    (∀ (k : Nat) (r : Request), requestFits s.params r → (s.present k r).Inv) ∧
    (∀ k : Nat, (s.collect k).2.Inv) ∧ s.applyReset.Inv

/-- The invariant holds after reset, with the default parameters (log entry 6, the model's choice of the spec's defaults) and with any legal ones. -/
def Obligations.ResetHasInvariant : Prop :=
  State.reset.Inv ∧ ∀ P : Params, P.Legal → (State.afterReset P).Inv

/-- R29: reset values of every piece of the spec's state, from any state: the tables (R85's numbers, `DpdDec`), no request in
flight, no response pending; the tables never change. -/
def Obligations.ResetValues : Prop :=
  (∀ s t : State, step s = .next t → t.romFmt = s.romFmt ∧ t.romDpd = s.romDpd) ∧
  ∀ s : State,
    (∀ f : Fmt, s.applyReset.romFmt[f.index] = descriptorTable f) ∧
    (∀ g : Group, romRead s.applyReset.romDpd g = dpdDecLogic g) ∧
    s.applyReset.ports.length = s.params.nports ∧
    ∀ p ∈ s.applyReset.ports, p.requests = [] ∧ p.responses = []

/-- A request in flight when reset is asserted gets no response. From every state, a step changes nothing at a port that has no request, and
nothing at all when no port has one (the model's reading, log entry 2, DEDUCED); and reset in any state leaves every port without
requests and without responses (that untaken responses go too is log entry 11, DEDUCED). -/
def Obligations.ResetDropsRequests : Prop :=
  (∀ (s t : State) (k : Nat) (p : Port), step s = .next t → s.ports[k]? = some p → p.requests = [] →
    t.ports[k]? = some p) ∧
  (∀ s : State, (∀ p ∈ s.ports, p.requests = []) → step s = .next s) ∧
  ∀ s : State, ∀ p ∈ s.applyReset.ports, p = Port.empty

/-! ### DPD codec -/

/-- DPDENC completes on digits 0 to 9 with the group of the Boolean equations R65 (written from R65, the meaning from R64's rows), a canonical one, and
answers `IllegalOperand(DIGIT)` when a digit is above 9. -/
def Obligations.DpdencResult : Prop :=
  ∀ (s : State) (d0 d1 d2 : Digit),
    (d0.toNat ≤ 9 ∧ d1.toNat ≤ 9 ∧ d2.toNat ≤ 9 →
      exec (.dpdenc d0 d1 d2) s = .next (s.deliver (.group (dpdEncLogic d0 d1 d2))) ∧
        redundantGroup (dpdEncLogic d0 d1 d2) = false) ∧
    (9 < d0.toNat ∨ 9 < d1.toNat ∨ 9 < d2.toNat →
      exec (.dpdenc d0 d1 d2) s = .next (s.deliver (.fault (.illegalOperand .digit))))

/-- DPDDEC completes on every group with the triplet of the Boolean equations R67 (the table holds R66's rows). -/
def Obligations.DpddecResult : Prop :=
  ∀ (s : State) (g : Group), s.TablesReady →
    exec (.dpddec g) s = .next (s.deliver (.triplet (dpdDecLogic g)))

/-- R70, R71: lossless, canonical, onto; the 24 redundant codes, and which codes share a triplet. -/
def Obligations.DpdLaws : Prop :=
  ((List.range 1024).filter fun n => redundantGroup (BitVec.ofNat 10 n)).length = 24 ∧
  (∀ d0 d1 d2 : Digit, d0.toNat ≤ 9 → d1.toNat ≤ 9 → d2.toNat ≤ 9 →
    dpdDec (dpdEnc d0 d1 d2) = { d0 := d0, d1 := d1, d2 := d2 } ∧ redundantGroup (dpdEnc d0 d1 d2) = false) ∧
  (∀ g : Group, (dpdDec g).d0.toNat ≤ 9 ∧ (dpdDec g).d1.toNat ≤ 9 ∧ (dpdDec g).d2.toNat ≤ 9) ∧
  (∀ g : Group, dpdEnc (dpdDec g).d0 (dpdDec g).d1 (dpdDec g).d2 = if redundantGroup g then g &&& 0x0FF else g) ∧
  ∀ g h : Group, dpdDec g = dpdDec h ↔
    g = h ∨ (g &&& 0x06E = 0x06E ∧ h &&& 0x06E = 0x06E ∧ g &&& 0x0FF = h &&& 0x0FF)

/-! ### Format Descriptor -/

/-- R86: FMTQ completes with the ten constants of R85. -/
def Obligations.FmtqResult : Prop :=
  ∀ (s : State) (f : Fmt), s.TablesReady →
    exec (.fmtq f) s = .next (s.deliver (.descriptor (descriptorTable f)))

/-- R87: BIASEXP completes with `e + B`, exact; the response's field holds it without wrap for every operand its own field holds. -/
def Obligations.BiasexpResult : Prop :=
  ∀ (s : State) (f : Fmt) (e : Int), s.TablesReady →
    exec (.biasexp f e) s = .next (s.deliver (.int (e + (descriptorTable f).exponentBias))) ∧
    (s.params.Legal → fitsInt s.params.expw e = true →
      (Response.code s.params (.int (e + (descriptorTable f).exponentBias))).read s.params =
        some (.int (e + (descriptorTable f).exponentBias)))

/-- R88: COEFCHK completes with whether `|u| ≤ 10^p - 1`; `-2^COEFW` is out of range for every format. -/
def Obligations.CoefchkResult : Prop :=
  ∀ (s : State) (f : Fmt) (u : Int), s.TablesReady →
    exec (.coefchk f u) s =
      .next (s.deliver (.bool (decide (-(10 ^ f.coefficientDigits - 1) ≤ u ∧ u ≤ 10 ^ f.coefficientDigits - 1)))) ∧
    (s.params.Legal → u = -2 ^ s.params.coefw → exec (.coefchk f u) s = .next (s.deliver (.bool false)))

/-- R89: LENCHK passes exactly on the format's length and otherwise reports both lengths; no data byte matters. -/
def Obligations.LenchkResult : Prop :=
  ∀ (s : State) (f : Fmt) (bs : ByteString), s.TablesReady →
    (bs.len.toNat = f.totalBits / 8 → exec (.lenchk f bs) s = .next (s.deliver .pass)) ∧
    (bs.len.toNat ≠ f.totalBits / 8 →
      exec (.lenchk f bs) s = .next (s.deliver (.fault (.lengthError bs.len.toNat (f.totalBits / 8)))))

/-! ### Rescale, round, validate -/

/-- `digits(c)` (00_scope.md R10): the count the engine uses is the one the notation defines. -/
def Obligations.DigitsCounted : Prop :=
  ∀ c n : Nat, digits c = n ↔ (c = 0 ∧ n = 1) ∨ (0 < c ∧ 10 ^ (n - 1) ≤ c ∧ c < 10 ^ n)

/-- R92: `RHE(c, k)` is the rule's pseudocode for every `c` and `k` (the model's shortcut of R108 changes nothing), is nearest to `c / 10^k`,
and even at a tie. -/
def Obligations.RoundHalfEvenMeaning : Prop :=
  (∀ c : Nat, rhe c 0 = c) ∧
  ∀ c k : Nat, 0 < k →
    rhe c k = (if 10 ^ k / 2 < c % 10 ^ k then c / 10 ^ k + 1
      else if c % 10 ^ k = 10 ^ k / 2 ∧ c / 10 ^ k % 2 = 1 then c / 10 ^ k + 1 else c / 10 ^ k) ∧
    2 * |(rhe c k : Int) * 10 ^ k - c| ≤ 10 ^ k ∧
    (2 * |(rhe c k : Int) * 10 ^ k - c| = 10 ^ k → rhe c k % 2 = 0)

/-- R93: the digit-serial datapath with guard digit and sticky flag computes the same; rounding is one rounding, not one per digit. -/
def Obligations.SerialRoundingAgrees : Prop :=
  (∀ c k : Nat, rheSerial c k = rhe c k) ∧ rhe 1451 2 = 15

/-- R97 with R94 to R96 and R104: RESCALE completes on every value with the value the rules give (powers of ten unshortened). -/
def Obligations.RescaleResult : Prop :=
  ∀ (s : State) (f : Fmt) (v : DecimalValue), s.TablesReady →
    let B : Int := (descriptorTable f).exponentBias
    let L : Int := (descriptorTable f).maxBiasedExponent
    let be := v.exponent + B
    exec (.rescale f v) s = .next (s.deliver (.value (
      if v.kind ≠ .finite then { sign := v.sign, kind := v.kind, coefficient := 0, exponent := 0 }
      else if be < 0 then
        if v.coefficient % 10 ^ (-be).toNat = 0 then
          { v with coefficient := v.coefficient / 10 ^ (-be).toNat, exponent := -B }
        else v
      else if L < be then
        if v.coefficient = 0 then { v with exponent := L - B }
        else if digits v.coefficient + (be - L).toNat ≤ f.coefficientDigits then
          { v with coefficient := v.coefficient * 10 ^ (be - L).toNat, exponent := L - B }
        else v
      else v)))

/-- R105 (a), (f): RESCALE never changes the number denoted nor the sign; where it changes the record, the new biased exponent is exactly 0 or `L`. -/
def Obligations.RescaleExact : Prop :=
  ∀ (f : Fmt) (v : DecimalValue), v.kind = .finite →
    ∃ w, (∀ s : State, s.TablesReady → exec (.rescale f v) s = .next (s.deliver (.value w))) ∧
      w.kind = .finite ∧ w.sign = v.sign ∧
      denotes w = denotes v ∧
      (w ≠ v → w.exponent + (descriptorTable f).exponentBias = 0 ∨
        w.exponent + (descriptorTable f).exponentBias = (descriptorTable f).maxBiasedExponent)

/-- R101 with R98 to R100 and R104: ROUND completes on every value with the value its three steps give. -/
def Obligations.RoundResult : Prop :=
  ∀ (s : State) (f : Fmt) (v : DecimalValue), s.TablesReady →
    let p := f.coefficientDigits
    let B : Int := (descriptorTable f).exponentBias
    let L : Int := (descriptorTable f).maxBiasedExponent
    let d := digits v.coefficient - p
    let ce1 : Nat × Int :=
      if p < digits v.coefficient then
        if rhe v.coefficient d = 10 ^ p then (10 ^ (p - 1), v.exponent + d + 1) else (rhe v.coefficient d, v.exponent + d)
      else (v.coefficient, v.exponent)
    let be := ce1.2 + B
    let ce2 : Nat × Int :=
      if be < 0 then (rhe ce1.1 (-be).toNat, -B)
      else if L < be then
        if ce1.1 = 0 then (0, L - B)
        else if digits ce1.1 + (be - L).toNat ≤ p then (ce1.1 * 10 ^ (be - L).toNat, L - B)
        else ce1
      else ce1
    exec (.round f v) s = .next (s.deliver (.value (
      if v.kind ≠ .finite then { sign := v.sign, kind := v.kind, coefficient := 0, exponent := 0 }
      else if L < ce2.2 + B then { sign := v.sign, kind := .infinity, coefficient := 0, exponent := 0 }
      else { sign := v.sign, kind := .finite, coefficient := ce2.1, exponent := ce2.2 })))

/-- R105 (c), (f): ROUND of a finite value is the Infinity of its sign or valid for the format with its sign, so VALIDATE and ENCODE of it do not fault. -/
def Obligations.RoundResultFits : Prop :=
  ∀ (f : Fmt) (v : DecimalValue), v.kind = .finite →
    ∃ w bs, w.sign = v.sign ∧
      (w = { sign := v.sign, kind := .infinity, coefficient := 0, exponent := 0 } ∨ ValidValue (descriptorTable f) w) ∧
      ∀ s : State, s.TablesReady → exec (.round f v) s = .next (s.deliver (.value w)) ∧
        exec (.validate f w) s = .next (s.deliver .pass) ∧ exec (.encode f w) s = .next (s.deliver (.bytes bs))

/-- R105 (d): RESCALE and ROUND are the identity on valid values, and idempotent on all values. -/
def Obligations.FittingIdempotent : Prop :=
  ∀ (f : Fmt) (v : DecimalValue),
    (ValidValue (descriptorTable f) v → ∀ s : State, s.TablesReady →
      exec (.rescale f v) s = .next (s.deliver (.value v)) ∧ exec (.round f v) s = .next (s.deliver (.value v))) ∧
    (∃ w, ∀ s : State, s.TablesReady →
      exec (.rescale f v) s = .next (s.deliver (.value w)) ∧ exec (.rescale f w) s = .next (s.deliver (.value w))) ∧
    ∃ w, ∀ s : State, s.TablesReady →
      exec (.round f v) s = .next (s.deliver (.value w)) ∧ exec (.round f w) s = .next (s.deliver (.value w))

/-- R105 (e) and R157: rounding the RESCALE result is rounding the original; where the exact fit is valid, ROUND gives the same value. -/
def Obligations.RoundAfterRescale : Prop :=
  ∀ (f : Fmt) (v : DecimalValue), v.kind = .finite →
    ∃ w r, (ValidValue (descriptorTable f) w → r = w) ∧
      ∀ s : State, s.TablesReady → exec (.rescale f v) s = .next (s.deliver (.value w)) ∧
        exec (.round f v) s = .next (s.deliver (.value r)) ∧ exec (.round f w) s = .next (s.deliver (.value r))

/-- Round saturation, R105 (b) made exact: ROUND answers the Infinity of the operand's sign exactly when the magnitude is at least half a unit of the last
place above the largest finite value, `(10^p - 1/2) * 10^(L-B)`. -/
def Obligations.RoundSaturates : Prop :=
  ∀ (f : Fmt) (v : DecimalValue), v.kind = .finite →
    ∃ w, (∀ s : State, s.TablesReady → exec (.round f v) s = .next (s.deliver (.value w))) ∧
      (w = { sign := v.sign, kind := .infinity, coefficient := 0, exponent := 0 } ↔
        (10 ^ f.coefficientDigits - 1 / 2 : ℚ) *
            10 ^ (((descriptorTable f).maxBiasedExponent : Int) - (descriptorTable f).exponentBias) ≤ |denotes v|)

/-- R102, R103: VALIDATE completes on valid and special values; the exponent is reported before the coefficient. -/
def Obligations.ValidateResult : Prop :=
  ∀ (s : State) (f : Fmt) (v : DecimalValue), s.TablesReady →
    let be := v.exponent + ((descriptorTable f).exponentBias : Int)
    (v.kind ≠ .finite → exec (.validate f v) s = .next (s.deliver .pass)) ∧
    (v.kind = .finite →
      (be < 0 ∨ ((descriptorTable f).maxBiasedExponent : Int) < be →
        exec (.validate f v) s = .next (s.deliver (.fault (.overflowError (.exp v.exponent))))) ∧
      (0 ≤ be ∧ be ≤ (descriptorTable f).maxBiasedExponent →
        (10 ^ f.coefficientDigits - 1 < v.coefficient →
          exec (.validate f v) s = .next (s.deliver (.fault (.overflowError (.coef v.coefficient))))) ∧
        (v.coefficient ≤ 10 ^ f.coefficientDigits - 1 → exec (.validate f v) s = .next (s.deliver .pass))))

/-! ### Binary codec -/

/-- Byte order and bit order (20_memory.md R33, R34; 00_scope.md R9): stream bit `k` of `n` bytes is bit `8n-1-k` of their word. -/
def Obligations.StreamBitsOfWord : Prop :=
  ∀ (bs : ByteString) (n k : Nat), n ≤ 16 → k < 8 * n →
    streamBit bs k = (wordOf n bs).testBit (8 * n - 1 - k)

/-- R110: a byte string of any other length than the format's makes DECODE answer `LengthError`, whatever its data. -/
def Obligations.DecodeLength : Prop :=
  ∀ (s : State) (f : Fmt) (bs : ByteString), s.TablesReady → bs.len.toNat ≠ f.totalBits / 8 →
    exec (.decode f bs) s = .next (s.deliver (.fault (.lengthError bs.len.toNat (f.totalBits / 8))))

/-- R112, R53: DECODE completes on special words, told by the first byte alone; every other bit is ignored. -/
def Obligations.DecodeSpecial : Prop :=
  ∀ (s : State) (f : Fmt) (bs : ByteString), s.TablesReady → bs.len.toNat = f.totalBits / 8 →
    let sign : Sign := if bs.data[0].getLsbD 7 then .negative else .positive
    (bs.data[0] &&& 0x7C = 0x78 →
      exec (.decode f bs) s = .next (s.deliver (.value { sign := sign, kind := .infinity, coefficient := 0, exponent := 0 }))) ∧
    (bs.data[0] &&& 0x7E = 0x7C →
      exec (.decode f bs) s = .next (s.deliver (.value { sign := sign, kind := .nan, coefficient := 0, exponent := 0 }))) ∧
    (bs.data[0] &&& 0x7E = 0x7E →
      exec (.decode f bs) s = .next (s.deliver (.value { sign := sign, kind := .signalingNan, coefficient := 0, exponent := 0 })))

/-- R113 to R115 with R52, R54, R55: DECODE completes on every other word with sign, coefficient and exponent assembled from the word's fields. -/
def Obligations.DecodeFinite : Prop :=
  ∀ (s : State) (f : Fmt) (bs : ByteString), s.TablesReady → bs.len.toNat = f.totalBits / 8 →
    bs.data[0] &&& 0x78 ≠ 0x78 →
    let F := descriptorTable f
    let W := wordOf (f.totalBits / 8) bs
    let G := W / 2 ^ (F.totalBits - 6) % 32
    let em := if G / 8 = 3 then G / 2 % 4 else G / 8
    let msd := if G / 8 = 3 then 8 + G % 2 else G % 8
    let n := groupTable f
    exec (.decode f bs) s = .next (s.deliver (.value
      { sign := if W / 2 ^ (F.totalBits - 1) = 1 then .negative else .positive
        kind := .finite
        coefficient := msd * 10 ^ (F.coefficientDigits - 1) +
          ∑ j ∈ Finset.range n, tripletValue (dpdDec (groupOfWord n W j)) * 10 ^ (3 * (n - 1 - j))
        exponent := ((em * 2 ^ F.exponentContinuationBits +
            W / 2 ^ F.coefficientContinuationBits % 2 ^ F.exponentContinuationBits : Nat) : Int) - F.exponentBias }))

/-- R121: every finite value DECODE returns is valid for the format: VALIDATE, RESCALE and ROUND leave it, ENCODE does not fault. -/
def Obligations.DecodedValuesValid : Prop :=
  ∀ (f : Fmt) (bs : ByteString), bs.len.toNat = f.totalBits / 8 →
    ∃ v bs', (v.kind = .finite → ValidValue (descriptorTable f) v) ∧
      ∀ s : State, s.TablesReady → exec (.decode f bs) s = .next (s.deliver (.value v)) ∧
        exec (.validate f v) s = .next (s.deliver .pass) ∧ exec (.rescale f v) s = .next (s.deliver (.value v)) ∧
        exec (.round f v) s = .next (s.deliver (.value v)) ∧ exec (.encode f v) s = .next (s.deliver (.bytes bs'))

/-- R120: ENCODE of a finite value that is not valid answers VALIDATE's fault, in the same order, and produces no bytes. -/
def Obligations.EncodeValidates : Prop :=
  ∀ (s : State) (f : Fmt) (v : DecimalValue), s.TablesReady → v.kind = .finite →
    let be := v.exponent + ((descriptorTable f).exponentBias : Int)
    (be < 0 ∨ ((descriptorTable f).maxBiasedExponent : Int) < be →
      exec (.encode f v) s = .next (s.deliver (.fault (.overflowError (.exp v.exponent))))) ∧
    (0 ≤ be ∧ be ≤ (descriptorTable f).maxBiasedExponent → 10 ^ f.coefficientDigits - 1 < v.coefficient →
      exec (.encode f v) s = .next (s.deliver (.fault (.overflowError (.coef v.coefficient)))))

/-- R118: ENCODE completes on every special value: sign and tag in the first byte, all other bytes zero. -/
def Obligations.EncodeSpecialResult : Prop :=
  ∀ (f : Fmt) (v : DecimalValue), v.kind ≠ .finite →
    ∃ bs, (∀ s : State, s.TablesReady → exec (.encode f v) s = .next (s.deliver (.bytes bs))) ∧
      bs.len.toNat = f.totalBits / 8 ∧
      bs.data[0] = (match v.kind, v.sign with
        | .infinity, .positive => 0x78
        | .infinity, .negative => 0xF8
        | .nan, .positive => 0x7C
        | .nan, .negative => 0xFC
        | .signalingNan, .positive => 0x7E
        | .signalingNan, .negative => 0xFE
        | .finite, _ => 0) ∧
      ∀ (i : Nat) (h : i < 16), 0 < i → bs.data[i] = 0

/-- R117: ENCODE completes on every valid finite value: the word's fields, each DPD group that of its three digits; bytes past the length are zero (R24). -/
def Obligations.EncodeFiniteResult : Prop :=
  ∀ (f : Fmt) (v : DecimalValue), ValidValue (descriptorTable f) v →
    let F := descriptorTable f
    let p := f.coefficientDigits
    let n := groupTable f
    let be := (v.exponent + (F.exponentBias : Int)).toNat
    let em := be / 2 ^ F.exponentContinuationBits
    let msd := v.coefficient / 10 ^ (p - 1)
    ∃ bs, (∀ s : State, s.TablesReady → exec (.encode f v) s = .next (s.deliver (.bytes bs))) ∧
      bs.len.toNat = f.totalBits / 8 ∧
      (∀ (i : Nat) (h : i < 16), f.totalBits / 8 ≤ i → bs.data[i] = 0) ∧
      wordOf (f.totalBits / 8) bs =
        (if v.sign = .negative then 2 ^ (F.totalBits - 1) else 0) +
        (if msd < 8 then em * 8 + msd else 24 + em * 2 + msd % 2) * 2 ^ (F.totalBits - 6) +
        be % 2 ^ F.exponentContinuationBits * 2 ^ F.coefficientContinuationBits +
        ∑ j ∈ Finset.range n,
          (dpdEnc (digitField v.coefficient (p - 2 - 3 * j)) (digitField v.coefficient (p - 3 - 3 * j))
            (digitField v.coefficient (p - 4 - 3 * j))).toNat * 2 ^ (10 * (n - 1 - j))

/-- R122 (a): DECODE of ENCODE gives back every special value in canonical form and every valid finite value, record for record. -/
def Obligations.DecodeAfterEncode : Prop :=
  ∀ (f : Fmt) (v : DecimalValue), Canonical v → (v.kind ≠ .finite ∨ ValidValue (descriptorTable f) v) →
    ∃ bs, ∀ s : State, s.TablesReady →
      exec (.encode f v) s = .next (s.deliver (.bytes bs)) ∧ exec (.decode f bs) s = .next (s.deliver (.value v))

/-- R122 (b), the source's round-trip property: re-encoding any word of the right length and decoding again gives the first decode's value. -/
def Obligations.DecodeEncodeDecode : Prop :=
  ∀ (f : Fmt) (bs : ByteString), bs.len.toNat = f.totalBits / 8 →
    ∃ v bs', ∀ s : State, s.TablesReady →
      exec (.decode f bs) s = .next (s.deliver (.value v)) ∧ exec (.encode f v) s = .next (s.deliver (.bytes bs')) ∧
      exec (.decode f bs') s = .next (s.deliver (.value v))

/-- R123, and R122 (c) from it: ENCODE of DECODE keeps a finite word's sign, combination and exponent bits and replaces each DPD group by its
canonical code; a special word keeps sign and tag and loses the rest. -/
def Obligations.EncodeAfterDecodeCanonical : Prop :=
  ∀ (f : Fmt) (bs : ByteString), bs.len.toNat = f.totalBits / 8 →
    let T := f.totalBits
    let C := (descriptorTable f).coefficientContinuationBits
    let n := groupTable f
    let W := wordOf (T / 8) bs
    ∃ v bs', (∀ s : State, s.TablesReady →
        exec (.decode f bs) s = .next (s.deliver (.value v)) ∧ exec (.encode f v) s = .next (s.deliver (.bytes bs'))) ∧
      (v.kind = .finite →
        wordOf (T / 8) bs' / 2 ^ C = W / 2 ^ C ∧
        ∀ j, j < n → groupOfWord n (wordOf (T / 8) bs') j = canonicalGroup (groupOfWord n W j)) ∧
      (v.kind = .infinity → wordOf (T / 8) bs' = W / 2 ^ (T - 6) * 2 ^ (T - 6)) ∧
      (v.kind = .nan ∨ v.kind = .signalingNan → wordOf (T / 8) bs' = W / 2 ^ (T - 7) * 2 ^ (T - 7))

/-! ### Value operations -/

/-- R126: FROMAPD completes on every operand but `-2^COEFW`, which is answered `IllegalOperand(APD_MAGNITUDE)`; a zero is POSITIVE. -/
def Obligations.FromapdResult : Prop :=
  ∀ (s : State) (a : Apd),
    (a.u ≠ -2 ^ s.params.coefw →
      exec (.fromapd a) s = .next (s.deliver (.value
        { sign := if a.u < 0 then .negative else .positive, kind := .finite, coefficient := a.u.natAbs, exponent := a.x }))) ∧
    (a.u = -2 ^ s.params.coefw → exec (.fromapd a) s = .next (s.deliver (.fault (.illegalOperand .apdMagnitude))))

/-- R127: TOAPD completes on every finite value with the same number, `u * 10^x`; a special value is answered `InconvertibleValue(kind, sign)`.
`FROMAPD(TOAPD(v)) = v` for every finite value a port carries but negative zeros, which become the positive zero of the same exponent. -/
def Obligations.ToapdResult : Prop :=
  ∀ v : DecimalValue,
    (v.kind = .finite →
      ∃ a : Apd, (∀ s : State, exec (.toapd v) s = .next (s.deliver (.apd a))) ∧ a.x = v.exponent ∧
        a.u = (if v.sign = .negative then -(v.coefficient : Int) else v.coefficient) ∧
        (a.u : ℚ) * 10 ^ a.x = denotes v ∧
        ∀ s : State, v.coefficient < 2 ^ s.params.coefw →
          exec (.fromapd a) s =
            .next (s.deliver (.value (if v.coefficient = 0 then { v with sign := .positive } else v)))) ∧
    (v.kind ≠ .finite → ∀ s : State,
      exec (.toapd v) s = .next (s.deliver (.fault (.inconvertibleValue v.kind v.sign))))

/-- R128: NEG completes on every value. -/
def Obligations.NegResult : Prop :=
  ∀ (s : State) (v : DecimalValue),
    exec (.neg v) s = .next (s.deliver (.value
      { sign := if v.sign = .positive then .negative else .positive
        kind := v.kind
        coefficient := if v.kind = .finite then v.coefficient else 0
        exponent := if v.kind = .finite then v.exponent else 0 }))

/-- R129: NEG twice is `canon`; NEG commutes with RESCALE, ROUND and DECODE after ENCODE, leaves VALIDATE's answer, and changes ENCODE's bytes in the sign bit only. -/
def Obligations.NegCommutes : Prop :=
  ∀ (f : Fmt) (v : DecimalValue), ∃ n w nw r nr : DecimalValue,
    (∀ s : State, s.TablesReady →
      exec (.neg v) s = .next (s.deliver (.value n)) ∧ exec (.neg n) s = .next (s.deliver (.value (canon v))) ∧
      exec (.rescale f v) s = .next (s.deliver (.value w)) ∧ exec (.neg w) s = .next (s.deliver (.value nw)) ∧
      exec (.rescale f n) s = .next (s.deliver (.value nw)) ∧
      exec (.round f v) s = .next (s.deliver (.value r)) ∧ exec (.neg r) s = .next (s.deliver (.value nr)) ∧
      exec (.round f n) s = .next (s.deliver (.value nr)) ∧
      exec (.validate f n) s = exec (.validate f v) s) ∧
    (v.kind = .finite ∧ ¬ ValidValue (descriptorTable f) v →
      ∀ s : State, s.TablesReady → exec (.encode f n) s = exec (.encode f v) s) ∧
    (v.kind ≠ .finite ∨ ValidValue (descriptorTable f) v →
      ∃ (bs bs' : ByteString) (d nd : DecimalValue),
        (∀ s : State, s.TablesReady → exec (.encode f v) s = .next (s.deliver (.bytes bs)) ∧
          exec (.encode f n) s = .next (s.deliver (.bytes bs')) ∧
          exec (.decode f bs) s = .next (s.deliver (.value d)) ∧ exec (.neg d) s = .next (s.deliver (.value nd)) ∧
          exec (.decode f bs') s = .next (s.deliver (.value nd))) ∧
        bs'.len = bs.len ∧ bs'.data[0] = bs.data[0] ^^^ 0x80 ∧ ∀ (i : Nat) (h : i < 16), 0 < i → bs'.data[i] = bs.data[i])

/-! ### Faults, fields, the host's sequences -/

/-- R142, R135: the fault codes an instruction's response can carry (never 0, 4, 5 or 7), and R137: no step delivers code 4; code 5 only an
illegal command byte does (R140). -/
def Obligations.FaultsByOperation : Prop :=
  (∀ (i : Instr) (s t : State) (k : Nat) (q : Request) (p : Port) (code : BitVec 3) (info : InfoField),
    s.pick = some (k, q) → exec i s = .next t → t.ports[k]? = some p →
    p.responses.getLast? = some (.fault code info) → code ∈ faultCodes i) ∧
  ∀ (s t : State) (k : Nat) (q : Request) (p : Port) (code : BitVec 3) (info : InfoField),
    s.pick = some (k, q) → step s = .next t → t.ports[k]? = some p →
    p.responses.getLast? = some (.fault code info) →
    code ≠ 0 ∧ code ≠ 4 ∧ code ≠ 7 ∧ (code = 5 ↔ illegalByte q.cmd = true)

/-- Every response fits its fields (10_state.md R18, R23 to R26; 43_rescale_round.md R97, 44_binary_codec.md R116, 45_value_ops.md R127): for every
operand its port carries, the response the rules give on mathematical integers is read back from its bits unchanged. -/
def Obligations.ResponsesFitTheirFields : Prop :=
  ∀ (s : State) (i : Instr), s.TablesReady → s.params.Legal → i.wellFormed s.params = true →
    exec i s = .next (s.deliver (responseOf s i)) ∧
      ((responseOf s i).code s.params).read s.params = some (responseOf s i) ∧
      responseFits s.params ((responseOf s i).code s.params)

/-- R60, R105 (c): `TOBYTES.R` cannot fault: it ends with bytes of the format's length. -/
def Obligations.TobytesRoundNeverFaults : Prop :=
  ∀ (s : State) (f : Fmt) (v : DecimalValue), s.TablesReady → s.params.Legal → v.fits s.params = true →
    ∃ bs, s.tobytesRound f v = some (.bytes bs) ∧ bs.len.toNat = f.totalBits / 8

/-- R60: VALIDATE in `TOBYTES.X` is redundant with the check inside ENCODE; and where `TOBYTES.X` ends with bytes, `TOBYTES.R` ends with the same. -/
def Obligations.TobytesExactAgrees : Prop :=
  ∀ (s : State) (f : Fmt) (v : DecimalValue), s.TablesReady → s.params.Legal → v.fits s.params = true →
    s.tobytesExact f v = thenValue (s.ask (.rescale f v)) (fun v1 => s.ask (.encode f v1)) ∧
    ∀ bs, s.tobytesExact f v = some (.bytes bs) → s.tobytesRound f v = some (.bytes bs)
end

