-- ==== Sys2Proof/Laws/Digits.lean ====
section
/-! SUPPORT. The number of decimal digits of a coefficient, and that the engine's short cuts (43_rescale_round.md R108) change
nothing. -/

namespace Sys2Proof.Machine

theorem digitsUpTo_bounds (fuel : Nat) : ∀ c, 0 < c → c < 2 ^ (fuel + 1) →
    0 < digitsUpTo fuel c ∧ 10 ^ (digitsUpTo fuel c - 1) ≤ c ∧ c < 10 ^ digitsUpTo fuel c := by
  induction fuel with
  | zero => intro c h0 h; simp [digitsUpTo]; omega
  | succ fuel ih =>
    intro c h0 h
    by_cases hc : c < 10
    · simp [digitsUpTo, hc]; omega
    · have hlt : c / 10 < 2 ^ (fuel + 1) := by
        rw [pow_succ] at h
        omega
      obtain ⟨hp, hl, hu⟩ := ih (c / 10) (by omega) hlt
      obtain ⟨n, hn⟩ : ∃ n, digitsUpTo fuel (c / 10) = n + 1 := ⟨_, (Nat.sub_add_cancel hp).symm⟩
      rw [hn] at hl hu
      simp only [digitsUpTo, hc, if_false, hn]
      refine ⟨by omega, ?_, ?_⟩
      · simp only [Nat.add_sub_cancel] at hl ⊢
        rw [pow_succ]
        omega
      · rw [pow_succ]
        omega

@[simp] theorem digits_zero : digits 0 = 1 := by decide

/-- A nonzero coefficient has `digits(c)` decimal digits. -/
theorem digits_bounds {c : Nat} (h : 0 < c) : 0 < digits c ∧ 10 ^ (digits c - 1) ≤ c ∧ c < 10 ^ digits c :=
  digitsUpTo_bounds _ c h (Nat.lt_log2_self)

theorem digits_pos (c : Nat) : 0 < digits c := by
  rcases Nat.eq_zero_or_pos c with rfl | h
  · simp
  · exact (digits_bounds h).1

theorem lt_pow_digits (c : Nat) : c < 10 ^ digits c := by
  rcases Nat.eq_zero_or_pos c with rfl | h
  · simp
  · exact (digits_bounds h).2.2

/-- Stripping is the rule's division test (43_rescale_round.md R94, R97), without its short cut. -/
theorem stripZeros_eq (c k : Nat) : stripZeros c k = if c % 10 ^ k = 0 then some (c / 10 ^ k) else none := by
  unfold stripZeros
  split
  · simp_all
  · split
    · rename_i hc hk
      have hlt : c < 10 ^ k := lt_of_lt_of_le (lt_pow_digits c) (Nat.pow_le_pow_right (by decide) hk)
      simp [Nat.mod_eq_of_lt hlt, hc]
    · rfl

/-- Rounding is the rule's formula (43_rescale_round.md R92), without its short cut. -/
theorem rhe_eq (c k : Nat) (hk : 0 < k) : rhe c k = roundHalfEven c k := by
  unfold rhe
  rw [if_neg (by omega)]
  split
  · rename_i h
    have hlt : c < 10 ^ (k - 1) :=
      lt_of_lt_of_le (lt_pow_digits c) (Nat.pow_le_pow_right (by decide) (by omega))
    obtain ⟨m, rfl⟩ : ∃ m, k = m + 1 := ⟨k - 1, by omega⟩
    simp only [Nat.add_sub_cancel] at hlt
    have hp : 10 ^ (m + 1) = 10 * 10 ^ m := by ring
    have hc : c < 10 ^ (m + 1) := by omega
    simp only [roundHalfEven, Nat.div_eq_of_lt hc, Nat.mod_eq_of_lt hc]
    rw [if_neg (by omega), if_neg (by simp)]
  · rfl

end Sys2Proof.Machine
end

