-- ==== Sys2Proof/Laws/Fields.lean ====
section
/-! SUPPORT. Writing an integer into a field and reading it back (00_scope.md R11, R12; 10_state.md R18). -/

namespace Sys2Proof

theorem natCode_lt (w n : Nat) : natCode w n < 2 ^ w := Nat.mod_lt _ (by positivity)

theorem intCode_lt (w : Nat) (z : Int) : intCode w z < 2 ^ w := by
  have h : z % 2 ^ w < 2 ^ w := Int.emod_lt_of_pos z (by positivity)
  have h0 : 0 ≤ z % 2 ^ w := Int.emod_nonneg z (by positivity)
  have : ((intCode w z : Nat) : Int) < ((2 ^ w : Nat) : Int) := by
    rw [intCode, Int.toNat_of_nonneg h0]
    push_cast
    exact h
  exact_mod_cast this

theorem natField_natCode {w n : Nat} (h : fitsNat w n = true) : natField w (natCode w n) = n := by
  have : n < 2 ^ w := by simpa [fitsNat] using h
  simp [natField, natCode, Nat.mod_eq_of_lt this]

theorem intField_intCode {w : Nat} {z : Int} (hw : 0 < w) (h : fitsInt w z = true) : intField w (intCode w z) = z := by
  obtain ⟨v, rfl⟩ : ∃ v, w = v + 1 := ⟨w - 1, by omega⟩
  have hz : -2 ^ v ≤ z ∧ z < 2 ^ v := by simpa [fitsInt] using h
  have hp : (2 : Int) ^ (v + 1) = 2 * 2 ^ v := by ring
  have hn : (2 : Nat) ^ (v + 1) = 2 * 2 ^ v := by ring
  have hpn : ((2 ^ v : Nat) : Int) = 2 ^ v := by push_cast; rfl
  have hlt := intCode_lt (v + 1) z
  have hcode : ((intCode (v + 1) z : Nat) : Int) = if 0 ≤ z then z else z + 2 * 2 ^ v := by
    rw [intCode, Int.toNat_of_nonneg (Int.emod_nonneg z (by positivity)), hp]
    split
    · exact Int.emod_eq_of_lt (by omega) (by omega)
    · rw [← Int.add_emod_right, Int.emod_eq_of_lt (by omega) (by omega)]
  simp only [intField, natField, Nat.mod_eq_of_lt hlt, Nat.add_sub_cancel]
  split at hcode <;> split <;> omega

@[simp] theorem Sign.ofBit_code (s : Sign) : Sign.ofBit s.code = s := by cases s <;> rfl
@[simp] theorem Kind.ofBits_code (k : Kind) : Kind.ofBits k.code = k := by cases k <;> rfl

theorem DecimalValue.read_code {P : Params} (hP : P.Legal) {v : DecimalValue} (h : v.fits P = true) :
    (v.code P).read P = v := by
  have := hP.expw_ge
  simp only [DecimalValue.fits, Bool.and_eq_true] at h
  simp [DecimalValue.code, ValueField.read, natField_natCode h.1, intField_intCode (by omega) h.2]

theorem Apd.read_code {P : Params} (hP : P.Legal) {a : Apd} (h : a.fits P = true) : (a.code P).read P = a := by
  have := hP.expw_ge
  simp only [Apd.fits, Bool.and_eq_true] at h
  simp [Apd.code, ApdField.read, intField_intCode (by omega) h.1, intField_intCode (by omega) h.2]

end Sys2Proof
end

