-- ==== Sys2Proof/Laws/State.lean ====
section
/-! SUPPORT. The fields of a state after each of the shared updates: one lemma per field per update. -/

namespace Sys2Proof.Machine

@[simp] theorem Port.answered_requests (r : PortResponse) (p : Port) : (p.answered r).requests = p.requests.tail := rfl
@[simp] theorem Port.answered_responses (r : PortResponse) (p : Port) : (p.answered r).responses = p.responses ++ [r] := rfl
@[simp] theorem Port.withOldest_requests (r : Request) (p : Port) : (p.withOldest r).requests = r :: p.requests.tail := rfl
@[simp] theorem Port.withOldest_responses (r : Request) (p : Port) : (p.withOldest r).responses = p.responses := rfl
@[simp] theorem Port.empty_requests : Port.empty.requests = [] := rfl
@[simp] theorem Port.empty_responses : Port.empty.responses = [] := rfl

@[simp] theorem State.afterReset_params (P : Params) : (State.afterReset P).params = P := rfl
@[simp] theorem State.afterReset_romFmt (P : Params) : (State.afterReset P).romFmt = romFmtContents := rfl
@[simp] theorem State.afterReset_romDpd (P : Params) : (State.afterReset P).romDpd = romDpdContents := rfl
@[simp] theorem State.afterReset_ports (P : Params) :
    (State.afterReset P).ports = List.replicate P.nports Port.empty := rfl
@[simp] theorem State.afterReset_turn (P : Params) : (State.afterReset P).turn = 0 := rfl

@[simp] theorem State.present_params (s : State) (k : Nat) (r : Request) : (s.present k r).params = s.params := rfl
@[simp] theorem State.present_romFmt (s : State) (k : Nat) (r : Request) : (s.present k r).romFmt = s.romFmt := rfl
@[simp] theorem State.present_romDpd (s : State) (k : Nat) (r : Request) : (s.present k r).romDpd = s.romDpd := rfl
@[simp] theorem State.present_turn (s : State) (k : Nat) (r : Request) : (s.present k r).turn = s.turn := rfl
@[simp] theorem State.present_ports (s : State) (k : Nat) (r : Request) :
    (s.present k r).ports = s.ports.modify k fun p => { p with requests := p.requests ++ [r] } := rfl

@[simp] theorem State.collect_params (s : State) (k : Nat) : (s.collect k).2.params = s.params := rfl
@[simp] theorem State.collect_romFmt (s : State) (k : Nat) : (s.collect k).2.romFmt = s.romFmt := rfl
@[simp] theorem State.collect_romDpd (s : State) (k : Nat) : (s.collect k).2.romDpd = s.romDpd := rfl
@[simp] theorem State.collect_turn (s : State) (k : Nat) : (s.collect k).2.turn = s.turn := rfl
@[simp] theorem State.collect_ports (s : State) (k : Nat) :
    (s.collect k).2.ports = s.ports.modify k fun p => { p with responses := p.responses.tail } := rfl

@[simp] theorem State.alone_params (s : State) (r : Request) : (s.alone r).params = s.params := rfl
@[simp] theorem State.alone_romFmt (s : State) (r : Request) : (s.alone r).romFmt = s.romFmt := rfl
@[simp] theorem State.alone_romDpd (s : State) (r : Request) : (s.alone r).romDpd = s.romDpd := rfl
@[simp] theorem State.alone_turn (s : State) (r : Request) : (s.alone r).turn = 0 := rfl
@[simp] theorem State.alone_ports (s : State) (r : Request) :
    (s.alone r).ports = [{ requests := [r], responses := [] }] := rfl

/-- Delivering writes neither parameters nor tables, whether or not there is a request to answer. -/
@[simp] theorem State.deliver_params (s : State) (r : Response) : (s.deliver r).params = s.params := by
  unfold State.deliver; split <;> rfl

@[simp] theorem State.deliver_romFmt (s : State) (r : Response) : (s.deliver r).romFmt = s.romFmt := by
  unfold State.deliver; split <;> rfl

@[simp] theorem State.deliver_romDpd (s : State) (r : Response) : (s.deliver r).romDpd = s.romDpd := by
  unfold State.deliver; split <;> rfl

theorem State.deliver_idle {s : State} (h : s.pick = none) (r : Response) : s.deliver r = s := by
  simp [State.deliver, h]

/-- Delivering to the request picked at port `k`: the whole next state. -/
theorem State.deliver_at {s : State} {k : Nat} {q : Request} (h : s.pick = some (k, q)) (r : Response) :
    s.deliver r =
      { s with ports := s.ports.modify k (Port.answered (r.code s.params)), turn := (k + 1) % s.ports.length } := by
  simp [State.deliver, h]

theorem State.pick_alone (s : State) (r : Request) : (s.alone r).pick = some (0, r) := by
  simp [State.pick, State.askOrder, State.oldestAt]

end Sys2Proof.Machine
end

