-- ==== Sys2Proof/Laws/Ops.lean ====
section
/-! SUPPORT. What the shared operations can do, said once: finding the request to serve, running an instruction, one step. -/

namespace Sys2Proof.Machine

/-- Looking at one port: it has work exactly when its oldest request is there. -/
theorem State.oldestAt_eq_some {s : State} {k j : Nat} {r : Request} :
    s.oldestAt k = some (j, r) ↔ j = k ∧ ∃ p, s.ports[k]? = some p ∧ p.requests.head? = some r := by
  simp only [State.oldestAt, Option.bind_eq_some_iff, Option.map_eq_some_iff, Prod.mk.injEq]
  constructor
  · rintro ⟨p, hp, q, hq, rfl, rfl⟩
    exact ⟨rfl, p, hp, hq⟩
  · rintro ⟨rfl, p, hp, hr⟩
    exact ⟨p, hp, r, hr, rfl, rfl⟩

/-- Every port is asked. -/
theorem State.mem_askOrder {s : State} {k : Nat} (h : k < s.ports.length) : k ∈ s.askOrder := by
  have hn : 0 < s.ports.length := by omega
  refine List.mem_map.2 ⟨(k + (s.ports.length - s.turn % s.ports.length)) % s.ports.length,
    List.mem_range.2 (Nat.mod_lt _ hn), ?_⟩
  have ht := Nat.mod_lt s.turn hn
  rw [Nat.add_mod, Nat.mod_mod, ← Nat.add_mod]
  have : s.turn + (k + (s.ports.length - s.turn % s.ports.length)) =
      k + s.ports.length * (s.turn / s.ports.length + 1) := by
    have := Nat.mod_add_div s.turn s.ports.length
    rw [Nat.mul_add]
    omega
  rw [this, Nat.add_mul_mod_self_left, Nat.mod_eq_of_lt h]

/-- The request picked is the oldest of its port. -/
theorem State.pick_spec {s : State} {k : Nat} {r : Request} (h : s.pick = some (k, r)) :
    ∃ p, s.ports[k]? = some p ∧ p.requests.head? = some r := by
  obtain ⟨j, -, hj⟩ := List.exists_of_findSome?_eq_some h
  obtain ⟨rfl, p, hp, hr⟩ := State.oldestAt_eq_some.1 hj
  exact ⟨p, hp, hr⟩

/-- Nothing is picked only when no port has a request. -/
theorem State.requests_nil_of_pick_none {s : State} (h : s.pick = none) {p : Port} (hp : p ∈ s.ports) :
    p.requests = [] := by
  obtain ⟨k, hk, rfl⟩ := List.getElem_of_mem hp
  have hnone := List.findSome?_eq_none_iff.1 h k (State.mem_askOrder hk)
  cases hr : (s.ports[k]).requests with
  | nil => rfl
  | cons r rs =>
    have : s.oldestAt k = some (k, r) :=
      State.oldestAt_eq_some.2 ⟨rfl, s.ports[k], List.getElem?_eq_getElem hk, by simp [hr]⟩
    simp [this] at hnone

/-- Every instruction delivers its response, and does nothing else. -/
theorem exec_eq_deliver (i : Instr) (s : State) : exec i s = .next (s.deliver (responseOf s i)) := by
  cases i <;> rfl

/-- The response of a request: the decoded instruction's, or the fault of an illegal byte. -/
def responseTo (s : State) (r : Request) : Response :=
  match decode s.params r with
  | .ok i => responseOf s i
  | .error _ => .fault (.illegalCommand r.cmd)

/-- One step: everything it can do. -/
theorem step_cases (s : State) :
    (s.pick = none ∧ step s = .next s) ∨
    ∃ k r, s.pick = some (k, r) ∧ step s = .next (s.deliver (responseTo s r)) := by
  cases h : s.pick with
  | none => exact .inl ⟨rfl, by simp [step, State.fetch, h]⟩
  | some t =>
    obtain ⟨k, r⟩ := t
    refine .inr ⟨k, r, rfl, ?_⟩
    cases hd : decode s.params r with
    | ok i => simp [step, State.fetch, h, hd, responseTo, exec_eq_deliver]
    | error e => simp [step, State.fetch, h, hd, responseTo, execIllegal, raise]

/-- A response depends on the parameters and the tables only. -/
theorem responseOf_congr {s t : State} (hp : t.params = s.params) (hf : t.romFmt = s.romFmt)
    (hd : t.romDpd = s.romDpd) (i : Instr) : responseOf t i = responseOf s i := by
  cases i <;> simp [responseOf, State.descriptor, hp, hf, hd]

/-- `Exec(req)` (10_state.md R21) as the bits of the request's response. -/
theorem State.transact_eq (s : State) (r : Request) : s.transact r = some ((responseTo s r).code s.params) := by
  have hresp : responseTo (s.alone r) r = responseTo s r := by
    unfold responseTo
    rw [State.alone_params]
    split <;> [exact responseOf_congr rfl rfl rfl _; rfl]
  rcases step_cases (s.alone r) with ⟨h, -⟩ | ⟨k, q, h, hs⟩
  · simp [State.pick_alone] at h
  · rw [State.pick_alone] at h
    obtain ⟨rfl, rfl⟩ := Prod.mk.inj (Option.some.inj h)
    rw [State.transact, hs, State.deliver_at (State.pick_alone s r), hresp]
    simp

end Sys2Proof.Machine
end

