-- ==== Sys2Proof/Laws/PerInstr.lean ====
section
/-! SUPPORT. Facts about every instruction as syntax, one lemma per constructor. -/

namespace Sys2Proof.Laws.CommandByte

/-- The instruction's command byte is legal (30_encoding.md R47): with any payload it decodes, to an instruction of the same byte. -/
def Statement (i : Instr) : Prop :=
  ∀ (P : Params) (p : Payload),
    (decode P { cmd := i.commandByte, payload := p }).map Instr.commandByte = .ok i.commandByte

theorem dpdenc (x y z : Digit) : Statement (.dpdenc x y z) := fun _ _ => by with_unfolding_all rfl
theorem dpddec (x : Group) : Statement (.dpddec x) := fun _ _ => by with_unfolding_all rfl
theorem fmtqD32 : Statement .fmtqD32 := fun _ _ => by with_unfolding_all rfl
theorem biasexpD32 (x : Int) : Statement (.biasexpD32 x) := fun _ _ => by with_unfolding_all rfl
theorem coefchkD32 (x : Int) : Statement (.coefchkD32 x) := fun _ _ => by with_unfolding_all rfl
theorem lenchkD32 (x : ByteString) : Statement (.lenchkD32 x) := fun _ _ => by with_unfolding_all rfl
theorem rescaleD32 (x : DecimalValue) : Statement (.rescaleD32 x) := fun _ _ => by with_unfolding_all rfl
theorem roundD32 (x : DecimalValue) : Statement (.roundD32 x) := fun _ _ => by with_unfolding_all rfl
theorem validateD32 (x : DecimalValue) : Statement (.validateD32 x) := fun _ _ => by with_unfolding_all rfl
theorem decodeD32 (x : ByteString) : Statement (.decodeD32 x) := fun _ _ => by with_unfolding_all rfl
theorem encodeD32 (x : DecimalValue) : Statement (.encodeD32 x) := fun _ _ => by with_unfolding_all rfl
theorem fromapd (x : Apd) : Statement (.fromapd x) := fun _ _ => by with_unfolding_all rfl
theorem toapd (x : DecimalValue) : Statement (.toapd x) := fun _ _ => by with_unfolding_all rfl
theorem neg (x : DecimalValue) : Statement (.neg x) := fun _ _ => by with_unfolding_all rfl
theorem fmtqD64 : Statement .fmtqD64 := fun _ _ => by with_unfolding_all rfl
theorem biasexpD64 (x : Int) : Statement (.biasexpD64 x) := fun _ _ => by with_unfolding_all rfl
theorem coefchkD64 (x : Int) : Statement (.coefchkD64 x) := fun _ _ => by with_unfolding_all rfl
theorem lenchkD64 (x : ByteString) : Statement (.lenchkD64 x) := fun _ _ => by with_unfolding_all rfl
theorem rescaleD64 (x : DecimalValue) : Statement (.rescaleD64 x) := fun _ _ => by with_unfolding_all rfl
theorem roundD64 (x : DecimalValue) : Statement (.roundD64 x) := fun _ _ => by with_unfolding_all rfl
theorem validateD64 (x : DecimalValue) : Statement (.validateD64 x) := fun _ _ => by with_unfolding_all rfl
theorem decodeD64 (x : ByteString) : Statement (.decodeD64 x) := fun _ _ => by with_unfolding_all rfl
theorem encodeD64 (x : DecimalValue) : Statement (.encodeD64 x) := fun _ _ => by with_unfolding_all rfl
theorem fmtqD128 : Statement .fmtqD128 := fun _ _ => by with_unfolding_all rfl
theorem biasexpD128 (x : Int) : Statement (.biasexpD128 x) := fun _ _ => by with_unfolding_all rfl
theorem coefchkD128 (x : Int) : Statement (.coefchkD128 x) := fun _ _ => by with_unfolding_all rfl
theorem lenchkD128 (x : ByteString) : Statement (.lenchkD128 x) := fun _ _ => by with_unfolding_all rfl
theorem rescaleD128 (x : DecimalValue) : Statement (.rescaleD128 x) := fun _ _ => by with_unfolding_all rfl
theorem roundD128 (x : DecimalValue) : Statement (.roundD128 x) := fun _ _ => by with_unfolding_all rfl
theorem validateD128 (x : DecimalValue) : Statement (.validateD128 x) := fun _ _ => by with_unfolding_all rfl
theorem decodeD128 (x : ByteString) : Statement (.decodeD128 x) := fun _ _ => by with_unfolding_all rfl
theorem encodeD128 (x : DecimalValue) : Statement (.encodeD128 x) := fun _ _ => by with_unfolding_all rfl

end Sys2Proof.Laws.CommandByte
end

