-- ==== Sys2Proof/Laws/Tables.lean ====
section
/-! SUPPORT. What reading a complete table gives. -/

namespace Sys2Proof.Machine

theorem romRead_contents (g : Group) : romRead romDpdContents g = dpdDec g := by
  simp [romRead, romDpdContents]

theorem formatConstants_eq (f : Fmt) : formatConstants f = descriptorTable f := by
  cases f <;> decide

theorem State.TablesReady.descriptor_eq {s : State} (h : s.TablesReady) (f : Fmt) :
    s.descriptor f = descriptorTable f := by
  rw [State.descriptor, h.fmt, ← formatConstants_eq]
  cases f <;> rfl

theorem State.TablesReady.romRead_eq {s : State} (h : s.TablesReady) (g : Group) :
    romRead s.romDpd g = dpdDec g := by
  rw [h.dpd, romRead_contents]

theorem State.TablesReady.deliver {s : State} (h : s.TablesReady) (r : Response) : (s.deliver r).TablesReady := by
  constructor
  · unfold State.deliver; split <;> exact h.fmt
  · unfold State.deliver; split <;> exact h.dpd

end Sys2Proof.Machine
end

