-- ==== Sys2Proof/Tests/Slice0.lean ====
section
/-! SUPPORT. The model's own tests (expected results from spec/95_test_vectors.md, 41_dpd_tables.md and the encodings of
30_encoding.md), the refusals of WellFormed, and, for each statement with hypotheses, a state and operands that meet them. -/

namespace Sys2Proof.Tests

open Sys2Proof Sys2Proof.Machine

set_option Elab.async false

/-! ### Helpers -/

/-- A byte string from its bytes. -/
def bytes (l : List Byte) : ByteString :=
  { len := BitVec.ofNat 8 l.length, data := carrier fun i => l.getD i 0 }

/-- A positive finite value. -/
def pos (c : Nat) (e : Int) : DecimalValue := finiteValue .positive c e

/-- A negative finite value. -/
def neg (c : Nat) (e : Int) : DecimalValue := finiteValue .negative c e

/-- A two-port unit after reset, with instruction `i`'s request on port 1. -/
def busy (i : Instr) : State :=
  (State.afterReset { Params.standard with nports := 2 }).present 1 (encode Params.standard i)

/-! ### Decoding: every constructor's command byte, written out from 30_encoding.md R43 to R47 (RSV FMT OP) -/

theorem test_decode_independent :
    [0b00000000, 0b00000001, 0b00001011, 0b00001100, 0b00001101].map (decodeTableWord 8) =
      [some (.dpdenc 0 0 0), some (.dpddec 0), some (.fromapd { u := 0, x := 0 }), some (.toapd (pos 0 0)),
        some (.neg (pos 0 0))] := by decide

theorem test_decode_d32 :
    [0b00000010, 0b00000011, 0b00000100, 0b00000101, 0b00000110, 0b00000111, 0b00001000, 0b00001001, 0b00001010].map
        (decodeTableWord 8) =
      [some .fmtqD32, some (.biasexpD32 0), some (.coefchkD32 0), some (.lenchkD32 ByteString.zero),
        some (.rescaleD32 (pos 0 0)), some (.roundD32 (pos 0 0)), some (.validateD32 (pos 0 0)),
        some (.decodeD32 ByteString.zero), some (.encodeD32 (pos 0 0))] := by decide

theorem test_decode_d64 :
    [0b00010010, 0b00010011, 0b00010100, 0b00010101, 0b00010110, 0b00010111, 0b00011000, 0b00011001, 0b00011010].map
        (decodeTableWord 8) =
      [some .fmtqD64, some (.biasexpD64 0), some (.coefchkD64 0), some (.lenchkD64 ByteString.zero),
        some (.rescaleD64 (pos 0 0)), some (.roundD64 (pos 0 0)), some (.validateD64 (pos 0 0)),
        some (.decodeD64 ByteString.zero), some (.encodeD64 (pos 0 0))] := by decide

theorem test_decode_d128 :
    [0b00100010, 0b00100011, 0b00100100, 0b00100101, 0b00100110, 0b00100111, 0b00101000, 0b00101001, 0b00101010].map
        (decodeTableWord 8) =
      [some .fmtqD128, some (.biasexpD128 0), some (.coefchkD128 0), some (.lenchkD128 ByteString.zero),
        some (.rescaleD128 (pos 0 0)), some (.roundD128 (pos 0 0)), some (.validateD128 (pos 0 0)),
        some (.decodeD128 ByteString.zero), some (.encodeD128 (pos 0 0))] := by decide

/-- The reserved bytes of 95_test_vectors.md section 2.7. -/
theorem test_decode_reserved :
    [0x0E, 0x0F, 0x1E, 0x2F, 0x10, 0x21, 0x1B, 0x2C, 0x1D, 0x30, 0x36, 0x3A, 0x40, 0x4A, 0x80, 0xC9, 0xFF].all
      (fun w => (decodeTableWord 8 w).isNone) = true := by decide

/-- Each reason for a rejection has its name. -/
theorem test_decode_reject_names :
    [0x40, 0x30, 0x0E, 0x10].map (fun w => decode Params.standard { cmd := BitVec.ofNat 8 w, payload := Payload.zero }) =
      [.error .reservedBits, .error .reservedFormat, .error .unassignedOperation, .error .formatNotZero] := by decide

/-- Operand assembly (R49): two's complement, sign and kind codes. -/
theorem test_decode_operands :
    decode Params.standard
        { cmd := 0x06
          payload := { Payload.zero with val := { sign := 1, kind := 2, coefficient := 750, exponent := 4294967287 } } } =
      .ok (.rescaleD32 { sign := .negative, kind := .nan, coefficient := 750, exponent := -9 }) := by decide

/-! ### WellFormed refuses an operand no port carries -/

theorem test_illformed_exponent_operand : Instr.wellFormed Params.standard (.biasexpD32 (2 ^ 31)) = false := by decide
theorem test_illformed_exponent_operand_low :
    Instr.wellFormed Params.standard (.biasexpD128 (-2 ^ 31 - 1)) = false := by decide
theorem test_illformed_signed_coefficient : Instr.wellFormed Params.standard (.coefchkD64 (2 ^ 128)) = false := by decide
theorem test_illformed_coefficient : Instr.wellFormed Params.standard (.encodeD32 (pos (2 ^ 128) 0)) = false := by decide
theorem test_illformed_exponent : Instr.wellFormed Params.standard (.roundD64 (pos 1 (2 ^ 31))) = false := by decide
theorem test_illformed_apd_unscaled :
    Instr.wellFormed Params.standard (.fromapd { u := -2 ^ 128 - 1, x := 0 }) = false := by decide
theorem test_illformed_apd_exponent :
    Instr.wellFormed Params.standard (.fromapd { u := 0, x := -2 ^ 31 - 1 }) = false := by decide

/-! ### The constant tables, entry by entry (41_dpd_tables.md R75, R76) -/

def decodeTable0 : List Nat :=
  [0, 1, 2, 3, 4, 5, 6, 7, 8, 9, 80, 81, 800, 801, 880, 881] ++
  [10, 11, 12, 13, 14, 15, 16, 17, 18, 19, 90, 91, 810, 811, 890, 891] ++
  [20, 21, 22, 23, 24, 25, 26, 27, 28, 29, 82, 83, 820, 821, 808, 809] ++
  [30, 31, 32, 33, 34, 35, 36, 37, 38, 39, 92, 93, 830, 831, 818, 819] ++
  [40, 41, 42, 43, 44, 45, 46, 47, 48, 49, 84, 85, 840, 841, 88, 89] ++
  [50, 51, 52, 53, 54, 55, 56, 57, 58, 59, 94, 95, 850, 851, 98, 99] ++
  [60, 61, 62, 63, 64, 65, 66, 67, 68, 69, 86, 87, 860, 861, 888, 889] ++
  [70, 71, 72, 73, 74, 75, 76, 77, 78, 79, 96, 97, 870, 871, 898, 899]

def decodeTable1 : List Nat :=
  [100, 101, 102, 103, 104, 105, 106, 107, 108, 109, 180, 181, 900, 901, 980, 981] ++
  [110, 111, 112, 113, 114, 115, 116, 117, 118, 119, 190, 191, 910, 911, 990, 991] ++
  [120, 121, 122, 123, 124, 125, 126, 127, 128, 129, 182, 183, 920, 921, 908, 909] ++
  [130, 131, 132, 133, 134, 135, 136, 137, 138, 139, 192, 193, 930, 931, 918, 919] ++
  [140, 141, 142, 143, 144, 145, 146, 147, 148, 149, 184, 185, 940, 941, 188, 189] ++
  [150, 151, 152, 153, 154, 155, 156, 157, 158, 159, 194, 195, 950, 951, 198, 199] ++
  [160, 161, 162, 163, 164, 165, 166, 167, 168, 169, 186, 187, 960, 961, 988, 989] ++
  [170, 171, 172, 173, 174, 175, 176, 177, 178, 179, 196, 197, 970, 971, 998, 999]

def decodeTable2 : List Nat :=
  [200, 201, 202, 203, 204, 205, 206, 207, 208, 209, 280, 281, 802, 803, 882, 883] ++
  [210, 211, 212, 213, 214, 215, 216, 217, 218, 219, 290, 291, 812, 813, 892, 893] ++
  [220, 221, 222, 223, 224, 225, 226, 227, 228, 229, 282, 283, 822, 823, 828, 829] ++
  [230, 231, 232, 233, 234, 235, 236, 237, 238, 239, 292, 293, 832, 833, 838, 839] ++
  [240, 241, 242, 243, 244, 245, 246, 247, 248, 249, 284, 285, 842, 843, 288, 289] ++
  [250, 251, 252, 253, 254, 255, 256, 257, 258, 259, 294, 295, 852, 853, 298, 299] ++
  [260, 261, 262, 263, 264, 265, 266, 267, 268, 269, 286, 287, 862, 863, 888, 889] ++
  [270, 271, 272, 273, 274, 275, 276, 277, 278, 279, 296, 297, 872, 873, 898, 899]

def decodeTable3 : List Nat :=
  [300, 301, 302, 303, 304, 305, 306, 307, 308, 309, 380, 381, 902, 903, 982, 983] ++
  [310, 311, 312, 313, 314, 315, 316, 317, 318, 319, 390, 391, 912, 913, 992, 993] ++
  [320, 321, 322, 323, 324, 325, 326, 327, 328, 329, 382, 383, 922, 923, 928, 929] ++
  [330, 331, 332, 333, 334, 335, 336, 337, 338, 339, 392, 393, 932, 933, 938, 939] ++
  [340, 341, 342, 343, 344, 345, 346, 347, 348, 349, 384, 385, 942, 943, 388, 389] ++
  [350, 351, 352, 353, 354, 355, 356, 357, 358, 359, 394, 395, 952, 953, 398, 399] ++
  [360, 361, 362, 363, 364, 365, 366, 367, 368, 369, 386, 387, 962, 963, 988, 989] ++
  [370, 371, 372, 373, 374, 375, 376, 377, 378, 379, 396, 397, 972, 973, 998, 999]

def decodeTable4 : List Nat :=
  [400, 401, 402, 403, 404, 405, 406, 407, 408, 409, 480, 481, 804, 805, 884, 885] ++
  [410, 411, 412, 413, 414, 415, 416, 417, 418, 419, 490, 491, 814, 815, 894, 895] ++
  [420, 421, 422, 423, 424, 425, 426, 427, 428, 429, 482, 483, 824, 825, 848, 849] ++
  [430, 431, 432, 433, 434, 435, 436, 437, 438, 439, 492, 493, 834, 835, 858, 859] ++
  [440, 441, 442, 443, 444, 445, 446, 447, 448, 449, 484, 485, 844, 845, 488, 489] ++
  [450, 451, 452, 453, 454, 455, 456, 457, 458, 459, 494, 495, 854, 855, 498, 499] ++
  [460, 461, 462, 463, 464, 465, 466, 467, 468, 469, 486, 487, 864, 865, 888, 889] ++
  [470, 471, 472, 473, 474, 475, 476, 477, 478, 479, 496, 497, 874, 875, 898, 899]

def decodeTable5 : List Nat :=
  [500, 501, 502, 503, 504, 505, 506, 507, 508, 509, 580, 581, 904, 905, 984, 985] ++
  [510, 511, 512, 513, 514, 515, 516, 517, 518, 519, 590, 591, 914, 915, 994, 995] ++
  [520, 521, 522, 523, 524, 525, 526, 527, 528, 529, 582, 583, 924, 925, 948, 949] ++
  [530, 531, 532, 533, 534, 535, 536, 537, 538, 539, 592, 593, 934, 935, 958, 959] ++
  [540, 541, 542, 543, 544, 545, 546, 547, 548, 549, 584, 585, 944, 945, 588, 589] ++
  [550, 551, 552, 553, 554, 555, 556, 557, 558, 559, 594, 595, 954, 955, 598, 599] ++
  [560, 561, 562, 563, 564, 565, 566, 567, 568, 569, 586, 587, 964, 965, 988, 989] ++
  [570, 571, 572, 573, 574, 575, 576, 577, 578, 579, 596, 597, 974, 975, 998, 999]

def decodeTable6 : List Nat :=
  [600, 601, 602, 603, 604, 605, 606, 607, 608, 609, 680, 681, 806, 807, 886, 887] ++
  [610, 611, 612, 613, 614, 615, 616, 617, 618, 619, 690, 691, 816, 817, 896, 897] ++
  [620, 621, 622, 623, 624, 625, 626, 627, 628, 629, 682, 683, 826, 827, 868, 869] ++
  [630, 631, 632, 633, 634, 635, 636, 637, 638, 639, 692, 693, 836, 837, 878, 879] ++
  [640, 641, 642, 643, 644, 645, 646, 647, 648, 649, 684, 685, 846, 847, 688, 689] ++
  [650, 651, 652, 653, 654, 655, 656, 657, 658, 659, 694, 695, 856, 857, 698, 699] ++
  [660, 661, 662, 663, 664, 665, 666, 667, 668, 669, 686, 687, 866, 867, 888, 889] ++
  [670, 671, 672, 673, 674, 675, 676, 677, 678, 679, 696, 697, 876, 877, 898, 899]

def decodeTable7 : List Nat :=
  [700, 701, 702, 703, 704, 705, 706, 707, 708, 709, 780, 781, 906, 907, 986, 987] ++
  [710, 711, 712, 713, 714, 715, 716, 717, 718, 719, 790, 791, 916, 917, 996, 997] ++
  [720, 721, 722, 723, 724, 725, 726, 727, 728, 729, 782, 783, 926, 927, 968, 969] ++
  [730, 731, 732, 733, 734, 735, 736, 737, 738, 739, 792, 793, 936, 937, 978, 979] ++
  [740, 741, 742, 743, 744, 745, 746, 747, 748, 749, 784, 785, 946, 947, 788, 789] ++
  [750, 751, 752, 753, 754, 755, 756, 757, 758, 759, 794, 795, 956, 957, 798, 799] ++
  [760, 761, 762, 763, 764, 765, 766, 767, 768, 769, 786, 787, 966, 967, 988, 989] ++
  [770, 771, 772, 773, 774, 775, 776, 777, 778, 779, 796, 797, 976, 977, 998, 999]

theorem test_rom_dpd_0 :
    (List.range 128).map (fun n => tripletValue (romRead romDpdContents (BitVec.ofNat 10 (0 + n)))) = decodeTable0 := by
  decide +kernel

theorem test_rom_dpd_1 :
    (List.range 128).map (fun n => tripletValue (romRead romDpdContents (BitVec.ofNat 10 (128 + n)))) = decodeTable1 := by
  decide +kernel

theorem test_rom_dpd_2 :
    (List.range 128).map (fun n => tripletValue (romRead romDpdContents (BitVec.ofNat 10 (256 + n)))) = decodeTable2 := by
  decide +kernel

theorem test_rom_dpd_3 :
    (List.range 128).map (fun n => tripletValue (romRead romDpdContents (BitVec.ofNat 10 (384 + n)))) = decodeTable3 := by
  decide +kernel

theorem test_rom_dpd_4 :
    (List.range 128).map (fun n => tripletValue (romRead romDpdContents (BitVec.ofNat 10 (512 + n)))) = decodeTable4 := by
  decide +kernel

theorem test_rom_dpd_5 :
    (List.range 128).map (fun n => tripletValue (romRead romDpdContents (BitVec.ofNat 10 (640 + n)))) = decodeTable5 := by
  decide +kernel

theorem test_rom_dpd_6 :
    (List.range 128).map (fun n => tripletValue (romRead romDpdContents (BitVec.ofNat 10 (768 + n)))) = decodeTable6 := by
  decide +kernel

theorem test_rom_dpd_7 :
    (List.range 128).map (fun n => tripletValue (romRead romDpdContents (BitVec.ofNat 10 (896 + n)))) = decodeTable7 := by
  decide +kernel

def encodeTable0 : List Nat :=
  [0x000, 0x001, 0x002, 0x003, 0x004, 0x005, 0x006, 0x007, 0x008, 0x009, 0x010, 0x011, 0x012, 0x013, 0x014, 0x015, 0x016, 0x017, 0x018, 0x019, 0x020, 0x021, 0x022, 0x023, 0x024] ++
  [0x025, 0x026, 0x027, 0x028, 0x029, 0x030, 0x031, 0x032, 0x033, 0x034, 0x035, 0x036, 0x037, 0x038, 0x039, 0x040, 0x041, 0x042, 0x043, 0x044, 0x045, 0x046, 0x047, 0x048, 0x049] ++
  [0x050, 0x051, 0x052, 0x053, 0x054, 0x055, 0x056, 0x057, 0x058, 0x059, 0x060, 0x061, 0x062, 0x063, 0x064, 0x065, 0x066, 0x067, 0x068, 0x069, 0x070, 0x071, 0x072, 0x073, 0x074] ++
  [0x075, 0x076, 0x077, 0x078, 0x079, 0x00A, 0x00B, 0x02A, 0x02B, 0x04A, 0x04B, 0x06A, 0x06B, 0x04E, 0x04F, 0x01A, 0x01B, 0x03A, 0x03B, 0x05A, 0x05B, 0x07A, 0x07B, 0x05E, 0x05F] ++
  [0x080, 0x081, 0x082, 0x083, 0x084, 0x085, 0x086, 0x087, 0x088, 0x089, 0x090, 0x091, 0x092, 0x093, 0x094, 0x095, 0x096, 0x097, 0x098, 0x099, 0x0A0, 0x0A1, 0x0A2, 0x0A3, 0x0A4]

def encodeTable1 : List Nat :=
  [0x0A5, 0x0A6, 0x0A7, 0x0A8, 0x0A9, 0x0B0, 0x0B1, 0x0B2, 0x0B3, 0x0B4, 0x0B5, 0x0B6, 0x0B7, 0x0B8, 0x0B9, 0x0C0, 0x0C1, 0x0C2, 0x0C3, 0x0C4, 0x0C5, 0x0C6, 0x0C7, 0x0C8, 0x0C9] ++
  [0x0D0, 0x0D1, 0x0D2, 0x0D3, 0x0D4, 0x0D5, 0x0D6, 0x0D7, 0x0D8, 0x0D9, 0x0E0, 0x0E1, 0x0E2, 0x0E3, 0x0E4, 0x0E5, 0x0E6, 0x0E7, 0x0E8, 0x0E9, 0x0F0, 0x0F1, 0x0F2, 0x0F3, 0x0F4] ++
  [0x0F5, 0x0F6, 0x0F7, 0x0F8, 0x0F9, 0x08A, 0x08B, 0x0AA, 0x0AB, 0x0CA, 0x0CB, 0x0EA, 0x0EB, 0x0CE, 0x0CF, 0x09A, 0x09B, 0x0BA, 0x0BB, 0x0DA, 0x0DB, 0x0FA, 0x0FB, 0x0DE, 0x0DF] ++
  [0x100, 0x101, 0x102, 0x103, 0x104, 0x105, 0x106, 0x107, 0x108, 0x109, 0x110, 0x111, 0x112, 0x113, 0x114, 0x115, 0x116, 0x117, 0x118, 0x119, 0x120, 0x121, 0x122, 0x123, 0x124] ++
  [0x125, 0x126, 0x127, 0x128, 0x129, 0x130, 0x131, 0x132, 0x133, 0x134, 0x135, 0x136, 0x137, 0x138, 0x139, 0x140, 0x141, 0x142, 0x143, 0x144, 0x145, 0x146, 0x147, 0x148, 0x149]

def encodeTable2 : List Nat :=
  [0x150, 0x151, 0x152, 0x153, 0x154, 0x155, 0x156, 0x157, 0x158, 0x159, 0x160, 0x161, 0x162, 0x163, 0x164, 0x165, 0x166, 0x167, 0x168, 0x169, 0x170, 0x171, 0x172, 0x173, 0x174] ++
  [0x175, 0x176, 0x177, 0x178, 0x179, 0x10A, 0x10B, 0x12A, 0x12B, 0x14A, 0x14B, 0x16A, 0x16B, 0x14E, 0x14F, 0x11A, 0x11B, 0x13A, 0x13B, 0x15A, 0x15B, 0x17A, 0x17B, 0x15E, 0x15F] ++
  [0x180, 0x181, 0x182, 0x183, 0x184, 0x185, 0x186, 0x187, 0x188, 0x189, 0x190, 0x191, 0x192, 0x193, 0x194, 0x195, 0x196, 0x197, 0x198, 0x199, 0x1A0, 0x1A1, 0x1A2, 0x1A3, 0x1A4] ++
  [0x1A5, 0x1A6, 0x1A7, 0x1A8, 0x1A9, 0x1B0, 0x1B1, 0x1B2, 0x1B3, 0x1B4, 0x1B5, 0x1B6, 0x1B7, 0x1B8, 0x1B9, 0x1C0, 0x1C1, 0x1C2, 0x1C3, 0x1C4, 0x1C5, 0x1C6, 0x1C7, 0x1C8, 0x1C9] ++
  [0x1D0, 0x1D1, 0x1D2, 0x1D3, 0x1D4, 0x1D5, 0x1D6, 0x1D7, 0x1D8, 0x1D9, 0x1E0, 0x1E1, 0x1E2, 0x1E3, 0x1E4, 0x1E5, 0x1E6, 0x1E7, 0x1E8, 0x1E9, 0x1F0, 0x1F1, 0x1F2, 0x1F3, 0x1F4]

def encodeTable3 : List Nat :=
  [0x1F5, 0x1F6, 0x1F7, 0x1F8, 0x1F9, 0x18A, 0x18B, 0x1AA, 0x1AB, 0x1CA, 0x1CB, 0x1EA, 0x1EB, 0x1CE, 0x1CF, 0x19A, 0x19B, 0x1BA, 0x1BB, 0x1DA, 0x1DB, 0x1FA, 0x1FB, 0x1DE, 0x1DF] ++
  [0x200, 0x201, 0x202, 0x203, 0x204, 0x205, 0x206, 0x207, 0x208, 0x209, 0x210, 0x211, 0x212, 0x213, 0x214, 0x215, 0x216, 0x217, 0x218, 0x219, 0x220, 0x221, 0x222, 0x223, 0x224] ++
  [0x225, 0x226, 0x227, 0x228, 0x229, 0x230, 0x231, 0x232, 0x233, 0x234, 0x235, 0x236, 0x237, 0x238, 0x239, 0x240, 0x241, 0x242, 0x243, 0x244, 0x245, 0x246, 0x247, 0x248, 0x249] ++
  [0x250, 0x251, 0x252, 0x253, 0x254, 0x255, 0x256, 0x257, 0x258, 0x259, 0x260, 0x261, 0x262, 0x263, 0x264, 0x265, 0x266, 0x267, 0x268, 0x269, 0x270, 0x271, 0x272, 0x273, 0x274] ++
  [0x275, 0x276, 0x277, 0x278, 0x279, 0x20A, 0x20B, 0x22A, 0x22B, 0x24A, 0x24B, 0x26A, 0x26B, 0x24E, 0x24F, 0x21A, 0x21B, 0x23A, 0x23B, 0x25A, 0x25B, 0x27A, 0x27B, 0x25E, 0x25F]

def encodeTable4 : List Nat :=
  [0x280, 0x281, 0x282, 0x283, 0x284, 0x285, 0x286, 0x287, 0x288, 0x289, 0x290, 0x291, 0x292, 0x293, 0x294, 0x295, 0x296, 0x297, 0x298, 0x299, 0x2A0, 0x2A1, 0x2A2, 0x2A3, 0x2A4] ++
  [0x2A5, 0x2A6, 0x2A7, 0x2A8, 0x2A9, 0x2B0, 0x2B1, 0x2B2, 0x2B3, 0x2B4, 0x2B5, 0x2B6, 0x2B7, 0x2B8, 0x2B9, 0x2C0, 0x2C1, 0x2C2, 0x2C3, 0x2C4, 0x2C5, 0x2C6, 0x2C7, 0x2C8, 0x2C9] ++
  [0x2D0, 0x2D1, 0x2D2, 0x2D3, 0x2D4, 0x2D5, 0x2D6, 0x2D7, 0x2D8, 0x2D9, 0x2E0, 0x2E1, 0x2E2, 0x2E3, 0x2E4, 0x2E5, 0x2E6, 0x2E7, 0x2E8, 0x2E9, 0x2F0, 0x2F1, 0x2F2, 0x2F3, 0x2F4] ++
  [0x2F5, 0x2F6, 0x2F7, 0x2F8, 0x2F9, 0x28A, 0x28B, 0x2AA, 0x2AB, 0x2CA, 0x2CB, 0x2EA, 0x2EB, 0x2CE, 0x2CF, 0x29A, 0x29B, 0x2BA, 0x2BB, 0x2DA, 0x2DB, 0x2FA, 0x2FB, 0x2DE, 0x2DF] ++
  [0x300, 0x301, 0x302, 0x303, 0x304, 0x305, 0x306, 0x307, 0x308, 0x309, 0x310, 0x311, 0x312, 0x313, 0x314, 0x315, 0x316, 0x317, 0x318, 0x319, 0x320, 0x321, 0x322, 0x323, 0x324]

def encodeTable5 : List Nat :=
  [0x325, 0x326, 0x327, 0x328, 0x329, 0x330, 0x331, 0x332, 0x333, 0x334, 0x335, 0x336, 0x337, 0x338, 0x339, 0x340, 0x341, 0x342, 0x343, 0x344, 0x345, 0x346, 0x347, 0x348, 0x349] ++
  [0x350, 0x351, 0x352, 0x353, 0x354, 0x355, 0x356, 0x357, 0x358, 0x359, 0x360, 0x361, 0x362, 0x363, 0x364, 0x365, 0x366, 0x367, 0x368, 0x369, 0x370, 0x371, 0x372, 0x373, 0x374] ++
  [0x375, 0x376, 0x377, 0x378, 0x379, 0x30A, 0x30B, 0x32A, 0x32B, 0x34A, 0x34B, 0x36A, 0x36B, 0x34E, 0x34F, 0x31A, 0x31B, 0x33A, 0x33B, 0x35A, 0x35B, 0x37A, 0x37B, 0x35E, 0x35F] ++
  [0x380, 0x381, 0x382, 0x383, 0x384, 0x385, 0x386, 0x387, 0x388, 0x389, 0x390, 0x391, 0x392, 0x393, 0x394, 0x395, 0x396, 0x397, 0x398, 0x399, 0x3A0, 0x3A1, 0x3A2, 0x3A3, 0x3A4] ++
  [0x3A5, 0x3A6, 0x3A7, 0x3A8, 0x3A9, 0x3B0, 0x3B1, 0x3B2, 0x3B3, 0x3B4, 0x3B5, 0x3B6, 0x3B7, 0x3B8, 0x3B9, 0x3C0, 0x3C1, 0x3C2, 0x3C3, 0x3C4, 0x3C5, 0x3C6, 0x3C7, 0x3C8, 0x3C9]

def encodeTable6 : List Nat :=
  [0x3D0, 0x3D1, 0x3D2, 0x3D3, 0x3D4, 0x3D5, 0x3D6, 0x3D7, 0x3D8, 0x3D9, 0x3E0, 0x3E1, 0x3E2, 0x3E3, 0x3E4, 0x3E5, 0x3E6, 0x3E7, 0x3E8, 0x3E9, 0x3F0, 0x3F1, 0x3F2, 0x3F3, 0x3F4] ++
  [0x3F5, 0x3F6, 0x3F7, 0x3F8, 0x3F9, 0x38A, 0x38B, 0x3AA, 0x3AB, 0x3CA, 0x3CB, 0x3EA, 0x3EB, 0x3CE, 0x3CF, 0x39A, 0x39B, 0x3BA, 0x3BB, 0x3DA, 0x3DB, 0x3FA, 0x3FB, 0x3DE, 0x3DF] ++
  [0x00C, 0x00D, 0x10C, 0x10D, 0x20C, 0x20D, 0x30C, 0x30D, 0x02E, 0x02F, 0x01C, 0x01D, 0x11C, 0x11D, 0x21C, 0x21D, 0x31C, 0x31D, 0x03E, 0x03F, 0x02C, 0x02D, 0x12C, 0x12D, 0x22C] ++
  [0x22D, 0x32C, 0x32D, 0x12E, 0x12F, 0x03C, 0x03D, 0x13C, 0x13D, 0x23C, 0x23D, 0x33C, 0x33D, 0x13E, 0x13F, 0x04C, 0x04D, 0x14C, 0x14D, 0x24C, 0x24D, 0x34C, 0x34D, 0x22E, 0x22F] ++
  [0x05C, 0x05D, 0x15C, 0x15D, 0x25C, 0x25D, 0x35C, 0x35D, 0x23E, 0x23F, 0x06C, 0x06D, 0x16C, 0x16D, 0x26C, 0x26D, 0x36C, 0x36D, 0x32E, 0x32F, 0x07C, 0x07D, 0x17C, 0x17D, 0x27C]

def encodeTable7 : List Nat :=
  [0x27D, 0x37C, 0x37D, 0x33E, 0x33F, 0x00E, 0x00F, 0x10E, 0x10F, 0x20E, 0x20F, 0x30E, 0x30F, 0x06E, 0x06F, 0x01E, 0x01F, 0x11E, 0x11F, 0x21E, 0x21F, 0x31E, 0x31F, 0x07E, 0x07F] ++
  [0x08C, 0x08D, 0x18C, 0x18D, 0x28C, 0x28D, 0x38C, 0x38D, 0x0AE, 0x0AF, 0x09C, 0x09D, 0x19C, 0x19D, 0x29C, 0x29D, 0x39C, 0x39D, 0x0BE, 0x0BF, 0x0AC, 0x0AD, 0x1AC, 0x1AD, 0x2AC] ++
  [0x2AD, 0x3AC, 0x3AD, 0x1AE, 0x1AF, 0x0BC, 0x0BD, 0x1BC, 0x1BD, 0x2BC, 0x2BD, 0x3BC, 0x3BD, 0x1BE, 0x1BF, 0x0CC, 0x0CD, 0x1CC, 0x1CD, 0x2CC, 0x2CD, 0x3CC, 0x3CD, 0x2AE, 0x2AF] ++
  [0x0DC, 0x0DD, 0x1DC, 0x1DD, 0x2DC, 0x2DD, 0x3DC, 0x3DD, 0x2BE, 0x2BF, 0x0EC, 0x0ED, 0x1EC, 0x1ED, 0x2EC, 0x2ED, 0x3EC, 0x3ED, 0x3AE, 0x3AF, 0x0FC, 0x0FD, 0x1FC, 0x1FD, 0x2FC] ++
  [0x2FD, 0x3FC, 0x3FD, 0x3BE, 0x3BF, 0x08E, 0x08F, 0x18E, 0x18F, 0x28E, 0x28F, 0x38E, 0x38F, 0x0EE, 0x0EF, 0x09E, 0x09F, 0x19E, 0x19F, 0x29E, 0x29F, 0x39E, 0x39F, 0x0FE, 0x0FF]

theorem test_dpd_enc_0 :
    (List.range 125).map (fun n => (dpdEnc (digitField (0 + n) 2) (digitField (0 + n) 1)
      (digitField (0 + n) 0)).toNat) = encodeTable0 := by
  decide +kernel

theorem test_dpd_enc_1 :
    (List.range 125).map (fun n => (dpdEnc (digitField (125 + n) 2) (digitField (125 + n) 1)
      (digitField (125 + n) 0)).toNat) = encodeTable1 := by
  decide +kernel

theorem test_dpd_enc_2 :
    (List.range 125).map (fun n => (dpdEnc (digitField (250 + n) 2) (digitField (250 + n) 1)
      (digitField (250 + n) 0)).toNat) = encodeTable2 := by
  decide +kernel

theorem test_dpd_enc_3 :
    (List.range 125).map (fun n => (dpdEnc (digitField (375 + n) 2) (digitField (375 + n) 1)
      (digitField (375 + n) 0)).toNat) = encodeTable3 := by
  decide +kernel

theorem test_dpd_enc_4 :
    (List.range 125).map (fun n => (dpdEnc (digitField (500 + n) 2) (digitField (500 + n) 1)
      (digitField (500 + n) 0)).toNat) = encodeTable4 := by
  decide +kernel

theorem test_dpd_enc_5 :
    (List.range 125).map (fun n => (dpdEnc (digitField (625 + n) 2) (digitField (625 + n) 1)
      (digitField (625 + n) 0)).toNat) = encodeTable5 := by
  decide +kernel

theorem test_dpd_enc_6 :
    (List.range 125).map (fun n => (dpdEnc (digitField (750 + n) 2) (digitField (750 + n) 1)
      (digitField (750 + n) 0)).toNat) = encodeTable6 := by
  decide +kernel

theorem test_dpd_enc_7 :
    (List.range 125).map (fun n => (dpdEnc (digitField (875 + n) 2) (digitField (875 + n) 1)
      (digitField (875 + n) 0)).toNat) = encodeTable7 := by
  decide +kernel

/-! ### One transaction each (95_test_vectors.md; the section is named), through the request's and the response's bits -/

/-- 2.1 -/
theorem test_dpdenc_large :
    State.reset.ask (.dpdenc 7 8 9) =
      some (.group 0x3CF) := by decide +kernel

/-- 2.1 -/
theorem test_dpdenc_digit_fault :
    State.reset.ask (.dpdenc 9 10 9) =
      some (.fault (.illegalOperand .digit)) := by decide +kernel

/-- 2.1 -/
theorem test_dpddec_redundant :
    State.reset.ask (.dpddec 0x37F) =
      some (.triplet { d0 := 8, d1 := 9, d2 := 9 }) := by decide +kernel

/-- 2.1 -/
theorem test_dpddec_two_large :
    State.reset.ask (.dpddec 0x10E) =
      some (.triplet { d0 := 8, d1 := 8, d2 := 2 }) := by decide +kernel

/-- 2.2 -/
theorem test_fmtq_D32 :
    State.reset.ask (.fmtqD32) =
      some (.descriptor { totalBits := 32, coefficientDigits := 7, exponentContinuationBits := 6, coefficientContinuationBits := 20, exponentBias := 101, maxBiasedExponent := 191, eMin := -95, eMax := 96, maxCoefficient := 9999999, byteLength := 4 }) := by decide +kernel

/-- 2.2 -/
theorem test_fmtq_D64 :
    State.reset.ask (.fmtqD64) =
      some (.descriptor { totalBits := 64, coefficientDigits := 16, exponentContinuationBits := 8, coefficientContinuationBits := 50, exponentBias := 398, maxBiasedExponent := 767, eMin := -383, eMax := 384, maxCoefficient := 9999999999999999, byteLength := 8 }) := by decide +kernel

/-- 2.2 -/
theorem test_fmtq_D128 :
    State.reset.ask (.fmtqD128) =
      some (.descriptor { totalBits := 128, coefficientDigits := 34, exponentContinuationBits := 12, coefficientContinuationBits := 110, exponentBias := 6176, maxBiasedExponent := 12287, eMin := -6143, eMax := 6144, maxCoefficient := 9999999999999999999999999999999999, byteLength := 16 }) := by decide +kernel

/-- 2.2 -/
theorem test_biasexp_D32 :
    State.reset.ask (.biasexpD32 2147483647) =
      some (.int 2147483748) := by decide +kernel

/-- 2.2 -/
theorem test_biasexp_D64 :
    State.reset.ask (.biasexpD64 (-399)) =
      some (.int (-1)) := by decide +kernel

/-- 2.2 -/
theorem test_biasexp_D128 :
    State.reset.ask (.biasexpD128 (-2147483648)) =
      some (.int (-2147477472)) := by decide +kernel

/-- 2.2 -/
theorem test_coefchk_D32 :
    State.reset.ask (.coefchkD32 (-10000000)) =
      some (.bool false) := by decide +kernel

/-- 2.2 -/
theorem test_coefchk_D64 :
    State.reset.ask (.coefchkD64 9999999999999999) =
      some (.bool true) := by decide +kernel

/-- 2.2 -/
theorem test_coefchk_D128 :
    State.reset.ask (.coefchkD128 (-2 ^ 128)) =
      some (.bool false) := by decide +kernel

/-- 2.2 -/
theorem test_lenchk_D32 :
    State.reset.ask (.lenchkD32 (bytes [0xA1, 0xC0, 0x03, 0xD0, 0x00])) =
      some (.fault (.lengthError 5 4)) := by decide +kernel

/-- 2.2 -/
theorem test_lenchk_D64 :
    State.reset.ask (.lenchkD64 (bytes [0xA1, 0xC0, 0x03, 0xD0])) =
      some (.fault (.lengthError 4 8)) := by decide +kernel

/-- 2.2 -/
theorem test_lenchk_D128 :
    State.reset.ask (.lenchkD128 { ByteString.zero with len := 255 }) =
      some (.fault (.lengthError 255 16)) := by decide +kernel

/-- 2.3 -/
theorem test_rescale_D32_strip :
    State.reset.ask (.rescaleD32 (neg 1000000 (-107))) =
      some (.value (neg 1 (-101))) := by decide +kernel

/-- 2.3 -/
theorem test_rescale_D32_not_partly :
    State.reset.ask (.rescaleD32 (pos 7500 (-104))) =
      some (.value (pos 7500 (-104))) := by decide +kernel

/-- 2.3 -/
theorem test_rescale_D64 :
    State.reset.ask (.rescaleD64 (pos 1 384)) =
      some (.value (pos 1000000000000000 369)) := by decide +kernel

/-- 2.3 -/
theorem test_rescale_D128 :
    State.reset.ask (.rescaleD128 (pos 99 6144)) =
      some (.value (pos 99 6144)) := by decide +kernel

/-- 2.4 -/
theorem test_round_D32_double :
    State.reset.ask (.roundD32 (pos 12345749 (-103))) =
      some (.value (pos 123458 (-101))) := by decide +kernel

/-- 2.4 -/
theorem test_round_D32_carry_saturates :
    State.reset.ask (.roundD32 (pos 99999995 89)) =
      some (.value (specialValue .positive .infinity)) := by decide +kernel

/-- S4 -/
theorem test_round_D64 :
    State.reset.ask (.roundD64 (pos 1234567890123456 (-399))) =
      some (.value (pos 123456789012346 (-398))) := by decide +kernel

/-- 2.4 -/
theorem test_round_D128 :
    State.reset.ask (.roundD128 (neg 99 9999)) =
      some (.value (specialValue .negative .infinity)) := by decide +kernel

/-- 2.3 -/
theorem test_validate_D32_exponent_first :
    State.reset.ask (.validateD32 (pos 10000000 91)) =
      some (.fault (.overflowError (.exp 91))) := by decide +kernel

/-- 2.3 -/
theorem test_validate_D64 :
    State.reset.ask (.validateD64 (pos 10000000000000000 369)) =
      some (.fault (.overflowError (.coef 10000000000000000))) := by decide +kernel

/-- 2.3 -/
theorem test_validate_D128 :
    State.reset.ask (.validateD128 (pos 9999999999999999999999999999999999 6111)) =
      some (.pass) := by decide +kernel

/-- 2.5 -/
theorem test_decode_D32_large_digit :
    State.reset.ask (.decodeD32 (bytes [0x77, 0xFF, 0xFF, 0xFF])) =
      some (.value (pos 9999999 90)) := by decide +kernel

/-- 2.5 -/
theorem test_decode_D32_infinity :
    State.reset.ask (.decodeD32 (bytes [0xFB, 0x12, 0x34, 0x56])) =
      some (.value (specialValue .negative .infinity)) := by decide +kernel

/-- 2.5 -/
theorem test_decode_D64 :
    State.reset.ask (.decodeD64 (bytes [0x01, 0x23, 0x45, 0x67, 0x89, 0xAB, 0xCD, 0xEF])) =
      some (.value (pos 645992190573989 (-326))) := by decide +kernel

/-- 2.5 -/
theorem test_decode_D128 :
    State.reset.ask (.decodeD128 (bytes [0xA6, 0x03, 0x13, 0x4B, 0x9C, 0x1E, 0x28, 0xE5, 0x6F, 0x3C, 0x12, 0x71, 0x77, 0x82, 0x35, 0x34])) =
      some (.value (neg 1234567890123456789012345678901234 (-20))) := by decide +kernel

/-- S1 -/
theorem test_encode_D32_S1 :
    State.reset.ask (.encodeD32 (neg 750 (-9))) =
      some (.bytes (bytes [0xA1, 0xC0, 0x03, 0xD0])) := by decide +kernel

/-- 2.5 -/
theorem test_encode_D32_large_digit :
    State.reset.ask (.encodeD32 (pos 8000000 0)) =
      some (.bytes (bytes [0x6A, 0x50, 0x00, 0x00])) := by decide +kernel

/-- 2.5 -/
theorem test_encode_D64 :
    State.reset.ask (.encodeD64 (pos 123456789012346 (-398))) =
      some (.bytes (bytes [0x00, 0x00, 0xA3, 0x95, 0xBC, 0xF0, 0x49, 0xC6])) := by decide +kernel

/-- 2.5 -/
theorem test_encode_D128 :
    State.reset.ask (.encodeD128 (specialValue .negative .infinity)) =
      some (.bytes (bytes [0xF8, 0x00, 0x00, 0x00, 0x00, 0x00, 0x00, 0x00, 0x00, 0x00, 0x00, 0x00, 0x00, 0x00, 0x00, 0x00])) := by decide +kernel

/-- 2.6 -/
theorem test_fromapd_zero :
    State.reset.ask (.fromapd { u := 0, x := -7 }) =
      some (.value (pos 0 (-7))) := by decide +kernel

/-- 2.6 -/
theorem test_fromapd_magnitude :
    State.reset.ask (.fromapd { u := -2 ^ 128, x := 0 }) =
      some (.fault (.illegalOperand .apdMagnitude)) := by decide +kernel

/-- 2.6 -/
theorem test_toapd_negative :
    State.reset.ask (.toapd (neg 1234567 90)) =
      some (.apd { u := -1234567, x := 90 }) := by decide +kernel

/-- 2.6 -/
theorem test_toapd_nan :
    State.reset.ask (.toapd (specialValue .negative .nan)) =
      some (.fault (.inconvertibleValue .nan .negative)) := by decide +kernel

/-- 2.6 -/
theorem test_neg_zero :
    State.reset.ask (.neg (pos 0 0)) =
      some (.value (neg 0 0)) := by decide +kernel

/-- 2.6 and R19 -/
theorem test_neg_snan :
    State.reset.ask (.neg { sign := .positive, kind := .signalingNan, coefficient := 7, exponent := 7 }) =
      some (.value (specialValue .negative .signalingNan)) := by decide +kernel

/-- 2.7: the command is tested before the operands. -/
theorem test_illegal_command_first :
    State.reset.transact { cmd := 0x10, payload := { Payload.zero with d0 := 12 } } =
      some (.fault 5 (.command 0x10)) := by decide +kernel

/-- The bits of a response (10_state.md R18; 60_exceptions.md R135): exponent -9 in 32 bits, fault code 2 with `which` = EXP. -/
theorem test_response_bits :
    Response.code Params.standard (.value (neg 750 (-9))) =
        .value { sign := 1, kind := 0, coefficient := 750, exponent := 4294967287 } ∧
      Response.code Params.standard (.fault (.overflowError (.exp (-1)))) = .fault 2 (.overflow 0 4294967295) := by
  decide +kernel

/-- R60: the source's scenario 1 as a host sequence (P1), and scenario 3's fallback (P3). -/
theorem test_tobytes_exact :
    State.reset.tobytesExact .d32 (neg 750 (-9)) = some (.bytes (bytes [0xA1, 0xC0, 0x03, 0xD0])) := by decide +kernel

theorem test_tobytes_fallback :
    State.reset.tobytesFallback .d128 (pos 99 9999) =
      some (.bytes (bytes [0x78, 0, 0, 0, 0, 0, 0, 0, 0, 0, 0, 0, 0, 0, 0, 0])) := by decide +kernel

/-- The host's word is what the very next step serves. -/
theorem test_withFetchWord :
    (State.reset.withFetchWord 8 0x2A).fetch =
      some ({ cmd := 0x2A, payload := Payload.zero }, .ok (.encodeD128 (pos 0 0))) := by decide +kernel

/-- The step leaves the response at the port it serves, and the next port's turn. -/
theorem test_step_serves_port :
    step (busy (.neg (pos 1 0))) =
      .next { busy (.neg (pos 1 0)) with
        ports := [Port.empty,
          { requests := [], responses := [Response.code Params.standard (.value (neg 1 0))] }]
        turn := 0 } := by rfl

/-! ### Witnesses: for each statement with hypotheses, operands and states that meet them -/

theorem standard_legal : Params.standard.Legal := ⟨by decide, by decide, by decide⟩

theorem reset_tablesReady : State.reset.TablesReady := ⟨rfl, rfl⟩

theorem busy_tablesReady (i : Instr) : (busy i).TablesReady := ⟨rfl, rfl⟩

theorem busy_pick (i : Instr) : (busy i).pick = some (1, encode Params.standard i) := by
  simp [busy, State.pick, State.askOrder, State.oldestAt, Params.standard, State.afterReset, Port.empty, List.range_succ]

theorem encode_requestFits (n : Nat) (i : Instr) :
    requestFits { Params.standard with nports := n } (encode Params.standard i) := by
  cases i <;>
    refine ⟨?_, ?_, ⟨?_, ?_⟩, ?_, ?_⟩ <;>
      first
        | exact intCode_lt _ _
        | exact natCode_lt _ _
        | exact (show (0 : Nat) < _ from Nat.two_pow_pos _)

/-- A state that meets the invariant and has a request in flight. -/
theorem witness_busy_inv (i : Instr) : (busy i).Inv where
  legal := ⟨show 113 ≤ 128 by decide, show 16 ≤ 32 by decide, show 1 ≤ 2 by decide⟩
  tables := ⟨rfl, rfl⟩
  portCount := rfl
  turn := show 0 < 2 by decide
  requests := by
    intro p hp r hr
    simp [busy, State.afterReset, Port.empty, List.replicate] at hp
    rcases hp with rfl | rfl
    · simp at hr
    · simp only [List.mem_singleton] at hr
      subst hr
      exact encode_requestFits 2 i
  responses := by
    intro p hp r hr
    simp [busy, State.afterReset, Port.empty, List.replicate] at hp
    rcases hp with rfl | rfl <;> simp at hr

theorem witness_DecodeEncodeRoundTrip :
    Params.standard.Legal ∧
      [Instr.biasexpD32 (-2 ^ 31), .biasexpD64 (2 ^ 31 - 1), .coefchkD128 (-2 ^ 128), .coefchkD32 (2 ^ 128 - 1),
        .roundD32 (pos (2 ^ 128 - 1) (-2 ^ 31)), .fromapd { u := -2 ^ 128, x := 2 ^ 31 - 1 }].all
        (Instr.wellFormed Params.standard) = true := ⟨standard_legal, by decide⟩

theorem witness_LegalCommandBytes :
    decode Params.standard { cmd := 0x2A, payload := Payload.zero } = .ok (.encodeD128 (pos 0 0)) := by decide

/-- A reserved byte of each of the four clauses, and the last legal byte before each. -/
theorem witness_IllegalCommandFaults :
    (State.reset.withFetchWord 8 0x3F).pick = some (0, { cmd := 0x3F, payload := Payload.zero }) ∧
      [0x40, 0x30, 0x0E, 0x10, 0x2B, 0xFF].all (fun n => illegalByte (BitVec.ofNat 8 n)) = true ∧
      [0x2A, 0x0D, 0x12, 0x00].all (fun n => !illegalByte (BitVec.ofNat 8 n)) = true := by
  refine ⟨rfl, by decide, by decide⟩

/-- Payloads that differ in every field the operation does not take, for each operation number. -/
theorem witness_OnlyListedFieldsExamined :
    let z := Payload.zero
    let o : Payload :=
      { d0 := 15, d1 := 15, d2 := 15, g := 1023, e := 1, u := 1, bs := { ByteString.zero with len := 9 }
        val := { sign := 1, kind := 3, coefficient := 1, exponent := 1 }, apd := { u := 1, x := 1 } }
    samePayloadFor 0x0 z { o with d0 := 0, d1 := 0, d2 := 0 } ∧ samePayloadFor 0x1 z { o with g := 0 } ∧
      samePayloadFor 0x2 z o ∧ samePayloadFor 0x3 z { o with e := 0 } ∧ samePayloadFor 0x4 z { o with u := 0 } ∧
      samePayloadFor 0x5 { o with bs := bytes [1, 2, 3, 4] } { z with bs := bytes [5, 6, 7, 8] } ∧
      samePayloadFor 0x9 { o with bs := { len := 4, data := carrier fun i => if i < 4 then 1 else 2 } }
        { z with bs := { len := 4, data := carrier fun i => if i < 4 then 1 else 3 } } ∧
      samePayloadFor 0xA z { o with val := z.val } ∧ samePayloadFor 0xB z { o with apd := z.apd } := by
  simp only [samePayloadFor]
  refine ⟨⟨rfl, rfl, rfl⟩, rfl, trivial, rfl, rfl, rfl, ⟨trivial, ?_⟩, trivial, trivial⟩
  decide

theorem witness_SpecialFieldsIgnored :
    let v : DecimalValue := { sign := .negative, kind := .nan, coefficient := 5, exponent := 6 }
    let w : DecimalValue := specialValue .negative .nan
    v.kind ≠ .finite ∧ w.kind = v.kind ∧ w.sign = v.sign ∧ v ≠ w ∧
      State.reset.ask (.roundD32 v) = some (.value w) := by decide +kernel

theorem witness_StepRunsDecoded :
    (busy (.neg (pos 1 0))).pick = some (1, encode Params.standard (.neg (pos 1 0))) ∧
      decode (busy (.neg (pos 1 0))).params (encode Params.standard (.neg (pos 1 0))) = .ok (.neg (pos 1 0)) :=
  ⟨busy_pick _, by decide⟩

theorem witness_IdleStepChangesNothing :
    State.reset.pick = none ∧ (busy (.neg (pos 1 0))).pick = some (1, encode Params.standard (.neg (pos 1 0))) :=
  ⟨by decide, busy_pick _⟩

theorem witness_EveryStepAnswersOne : 0 < (busy (.neg (pos 1 0))).pendingCount := by decide

theorem witness_DeliverAnswersOldest :
    State.reset.pick = none ∧ (busy .fmtqD32).pick = some (1, encode Params.standard .fmtqD32) :=
  ⟨by decide, busy_pick _⟩

theorem witness_TransactionFrame (i : Instr) :
    exec i (busy i) = .next ((busy i).deliver (responseOf (busy i) i)) ∧
      (busy i).pick = some (1, encode Params.standard i) ∧ exec i State.reset = .next State.reset := by
  refine ⟨exec_eq_deliver _ _, busy_pick i, ?_⟩
  rw [exec_eq_deliver, State.deliver_idle (by decide)]

/-- A table that differs in the entries the operation does not read. -/
theorem witness_ReadsSelectedEntryOnly :
    let rom : Vector Descriptor 3 := #v[formatConstants .d64, formatConstants .d64, formatConstants .d32]
    Instr.fmtqD64.format = some .d64 ∧ rom[Fmt.d64.index] = State.reset.romFmt[Fmt.d64.index] ∧
      rom ≠ State.reset.romFmt := by decide +kernel

theorem witness_ResponseFunctionOfRequest :
    (busy (.neg (pos 1 0))).pick = some (1, encode Params.standard (.neg (pos 1 0))) ∧
      ((busy .fmtqD32).params = (busy .fmtqD64).params ∧ (busy .fmtqD32).romFmt = (busy .fmtqD64).romFmt ∧
        (busy .fmtqD32).romDpd = (busy .fmtqD64).romDpd) := ⟨busy_pick _, rfl, rfl, rfl⟩

theorem witness_AllAnsweredInOrder :
    (busy (.neg (pos 1 0))).ports[1]? =
      some { requests := [encode Params.standard (.neg (pos 1 0))], responses := [] } := by rfl

theorem witness_StepKeepsInvariant :
    (busy (.neg (pos 1 0))).Inv ∧
      step (busy (.neg (pos 1 0))) =
        .next ((busy (.neg (pos 1 0))).deliver (responseTo (busy (.neg (pos 1 0))) (encode Params.standard (.neg (pos 1 0))))) := by
  refine ⟨witness_busy_inv _, ?_⟩
  rcases step_cases (busy (.neg (pos 1 0))) with ⟨h, -⟩ | ⟨k, r, h, hs⟩
  · rw [busy_pick] at h
    simp at h
  · rw [busy_pick] at h
    obtain ⟨-, rfl⟩ := Prod.mk.inj (Option.some.inj h)
    exact hs

theorem witness_HostActionsKeepInvariant :
    (busy .fmtqD32).Inv ∧ requestFits (busy .fmtqD32).params (encode Params.standard (.roundD32 (pos 1 0))) :=
  ⟨witness_busy_inv _, encode_requestFits 2 (.roundD32 (pos 1 0))⟩

theorem witness_ResetHasInvariant : Params.Legal { coefw := 113, expw := 16, nports := 1 } :=
  ⟨by decide, by decide, by decide⟩

theorem witness_ResetValues :
    Port.empty ∈ State.reset.applyReset.ports ∧ step State.reset = .next State.reset := ⟨by decide, rfl⟩

/-- Port 0 of a busy unit has no request while a step answers port 1; after reset no port has one. -/
theorem witness_ResetDropsRequests :
    (busy .fmtqD32).ports[0]? = some Port.empty ∧
      step (busy .fmtqD32) =
        .next ((busy .fmtqD32).deliver (responseTo (busy .fmtqD32) (encode Params.standard .fmtqD32))) ∧
      (∀ p ∈ (busy .fmtqD32).applyReset.ports, p.requests = []) ∧
      (busy .fmtqD32).applyReset.ports = [Port.empty, Port.empty] := ⟨rfl, by rfl, by decide, rfl⟩

/-- Both clauses at the boundary, each digit. -/
theorem witness_DpdencResult :
    ((9 : Digit).toNat ≤ 9 ∧ (9 : Digit).toNat ≤ 9 ∧ (0 : Digit).toNat ≤ 9) ∧ 9 < (10 : Digit).toNat ∧
      9 < (15 : Digit).toNat := by decide

theorem witness_DpddecResult : State.reset.TablesReady := reset_tablesReady

theorem witness_DpdLaws : (9 : Digit).toNat ≤ 9 := by decide

theorem witness_FmtqResult : (busy .fmtqD128).TablesReady := busy_tablesReady _

theorem witness_BiasexpResult :
    State.reset.TablesReady ∧ State.reset.params.Legal ∧ fitsInt State.reset.params.expw (-2 ^ 31) = true ∧
      fitsInt State.reset.params.expw (2 ^ 31 - 1) = true := ⟨reset_tablesReady, standard_legal, by decide, by decide⟩

theorem witness_CoefchkResult :
    State.reset.TablesReady ∧ State.reset.params.Legal ∧ (-2 ^ 128 : Int) = -2 ^ State.reset.params.coefw :=
  ⟨reset_tablesReady, standard_legal, rfl⟩

theorem witness_LenchkResult :
    State.reset.TablesReady ∧ (bytes [1, 2, 3, 4]).len.toNat = Fmt.d32.totalBits / 8 ∧
      (bytes [1, 2, 3]).len.toNat ≠ Fmt.d32.totalBits / 8 ∧ (255 : BitVec 8).toNat ≠ Fmt.d128.totalBits / 8 :=
  ⟨reset_tablesReady, by decide, by decide, by decide⟩

/-- A tie that goes to even, and `k` at its least. -/
theorem witness_RoundHalfEvenMeaning : 0 < 1 ∧ 2 * |(rhe 25 1 : Int) * 10 ^ 1 - (25 : Nat)| = 10 ^ 1 := by decide

theorem witness_RescaleResult : State.reset.TablesReady := reset_tablesReady

theorem witness_RescaleExact :
    State.reset.TablesReady ∧ (pos 7500 (-103)).kind = .finite ∧
      rescaleValue (descriptorTable .d32) (pos 7500 (-103)) ≠ pos 7500 (-103) :=
  ⟨reset_tablesReady, rfl, by decide +kernel⟩

theorem witness_RoundResult : State.reset.TablesReady := reset_tablesReady

theorem witness_RoundResultFits : State.reset.TablesReady ∧ (pos 99999995 89).kind = .finite := ⟨reset_tablesReady, rfl⟩

/-- The largest and the smallest valid value. -/
theorem witness_FittingIdempotent :
    State.reset.TablesReady ∧ ValidValue (descriptorTable .d32) (pos 9999999 90) ∧
      ValidValue (descriptorTable .d128) (neg 0 (-6176)) :=
  ⟨reset_tablesReady, ⟨rfl, by decide⟩, rfl, by decide⟩

theorem witness_RoundAfterRescale :
    State.reset.TablesReady ∧ (pos 7500 (-103)).kind = .finite ∧
      ValidValue (descriptorTable .d32) (rescaleValue (descriptorTable .d32) (pos 7500 (-103))) :=
  ⟨reset_tablesReady, rfl, by decide +kernel, by decide +kernel⟩

theorem witness_RoundSaturates : State.reset.TablesReady ∧ (pos 99999995 89).kind = .finite := ⟨reset_tablesReady, rfl⟩

/-- Each clause at its boundary: biased exponent -1, 192, 0 and 191; coefficient `10^7` and `10^7 - 1`; a special value. -/
theorem witness_ValidateResult :
    State.reset.TablesReady ∧ (specialValue .positive .nan).kind ≠ .finite ∧ (pos 1 (-102)).kind = .finite ∧
      ((-102 : Int) + 101 < 0 ∧ (191 : Int) < 91 + 101) ∧
      (0 ≤ (-101 : Int) + 101 ∧ (90 : Int) + 101 ≤ (descriptorTable .d32).maxBiasedExponent) ∧
      (10 ^ Fmt.d32.coefficientDigits - 1 < 10000000 ∧ 9999999 ≤ 10 ^ Fmt.d32.coefficientDigits - 1) :=
  ⟨reset_tablesReady, by decide, rfl, by decide, by decide, by decide⟩

theorem witness_StreamBitsOfWord : 16 ≤ 16 ∧ 127 < 8 * 16 := by decide

theorem witness_DecodeLength :
    State.reset.TablesReady ∧ ByteString.zero.len.toNat ≠ Fmt.d32.totalBits / 8 ∧
      (bytes [0x7E, 0, 0]).len.toNat ≠ Fmt.d32.totalBits / 8 := ⟨reset_tablesReady, by decide, by decide⟩

theorem witness_DecodeSpecial :
    State.reset.TablesReady ∧ (bytes [0x7B, 1, 2, 3]).len.toNat = Fmt.d32.totalBits / 8 ∧
      (bytes [0x7B, 1, 2, 3]).data[0] &&& 0x7C = 0x78 ∧ (bytes [0xFD, 1, 2, 3]).data[0] &&& 0x7E = 0x7C ∧
      (bytes [0x7F, 1, 2, 3]).data[0] &&& 0x7E = 0x7E :=
  ⟨reset_tablesReady, by decide, by decide, by decide, by decide⟩

/-- The largest finite first byte. -/
theorem witness_DecodeFinite :
    State.reset.TablesReady ∧ (bytes [0x77, 0xFF, 0xFF, 0xFF]).len.toNat = Fmt.d32.totalBits / 8 ∧
      (bytes [0x77, 0xFF, 0xFF, 0xFF]).data[0] &&& 0x78 ≠ 0x78 := ⟨reset_tablesReady, by decide, by decide⟩

theorem witness_DecodedValuesValid :
    State.reset.TablesReady ∧ (bytes [0x77, 0xFF, 0xFF, 0xFF]).len.toNat = Fmt.d32.totalBits / 8 ∧
      (decodeWord (descriptorTable .d32) romDpdContents (wordOf 4 (bytes [0x77, 0xFF, 0xFF, 0xFF]))).kind = .finite :=
  ⟨reset_tablesReady, by decide, by decide +kernel⟩

theorem witness_EncodeValidates :
    State.reset.TablesReady ∧ (pos 10000000 0).kind = .finite ∧ (-102 : Int) + (descriptorTable .d32).exponentBias < 0 ∧
      ((descriptorTable .d32).maxBiasedExponent : Int) < 91 + (descriptorTable .d32).exponentBias ∧
      10 ^ Fmt.d32.coefficientDigits - 1 < 10000000 := ⟨reset_tablesReady, rfl, by decide, by decide, by decide⟩

theorem witness_EncodeSpecialResult :
    State.reset.TablesReady ∧ ({ sign := .negative, kind := .signalingNan, coefficient := 7, exponent := 7 } : DecimalValue).kind
      ≠ .finite := ⟨reset_tablesReady, by decide⟩

theorem witness_EncodeFiniteResult :
    State.reset.TablesReady ∧ ValidValue (descriptorTable .d64) (neg 9999999999999999 369) ∧
      ValidValue (descriptorTable .d64) (pos 0 (-398)) := ⟨reset_tablesReady, ⟨rfl, by decide⟩, rfl, by decide⟩

theorem witness_DecodeAfterEncode :
    State.reset.TablesReady ∧ Canonical (specialValue .negative .nan) ∧ (specialValue .negative .nan).kind ≠ .finite ∧
      Canonical (neg 0 90) ∧ ValidValue (descriptorTable .d32) (neg 0 90) :=
  ⟨reset_tablesReady, .inr ⟨rfl, rfl⟩, by decide, .inl rfl, rfl, by decide⟩

theorem witness_DecodeEncodeDecode :
    State.reset.TablesReady ∧ (bytes [0x22, 0x50, 0x03, 0x6E]).len.toNat = Fmt.d32.totalBits / 8 :=
  ⟨reset_tablesReady, by decide⟩

/-- A word of each clause: a finite one with a redundant group, an infinity, a NaN. -/
theorem witness_EncodeAfterDecodeCanonical :
    State.reset.TablesReady ∧ (bytes [0x22, 0x50, 0x03, 0x6E]).len.toNat = Fmt.d32.totalBits / 8 ∧
      redundantGroup (groupOfWord 2 (wordOf 4 (bytes [0x22, 0x50, 0x03, 0x6E])) 1) = true ∧
      [bytes [0x22, 0x50, 0x03, 0x6E], bytes [0x79, 0xAB, 0xCD, 0xEF], bytes [0x7D, 1, 1, 1], bytes [0x7F, 1, 1, 1]].map
        (fun bs => (decodeWord (descriptorTable .d32) romDpdContents (wordOf 4 bs)).kind) =
        [.finite, .infinity, .nan, .signalingNan] := by
  refine ⟨reset_tablesReady, by decide, by decide, by decide +kernel⟩

theorem witness_FromapdResult :
    (-2 ^ 128 + 1 : Int) ≠ -2 ^ State.reset.params.coefw ∧ (-2 ^ 128 : Int) = -2 ^ State.reset.params.coefw := by decide

theorem witness_ToapdResult :
    (neg 0 0).kind = .finite ∧ (specialValue .negative .infinity).kind ≠ .finite ∧ (neg (2 ^ 128 - 1) 5).kind = .finite ∧
      (neg (2 ^ 128 - 1) 5).coefficient < 2 ^ State.reset.params.coefw := by decide

theorem witness_NegCommutes :
    State.reset.TablesReady ∧ ((pos 10000000 0).kind = .finite ∧ ¬ ValidValue (descriptorTable .d32) (pos 10000000 0)) ∧
      (specialValue .negative .nan).kind ≠ .finite ∧ ValidValue (descriptorTable .d32) (neg 0 0) := by
  refine ⟨reset_tablesReady, ⟨rfl, fun h => ?_⟩, by decide, rfl, by decide⟩
  exact absurd h.2 (by decide)

/-- A fault response delivered by `exec` and by a step, and one by an illegal byte. -/
theorem witness_FaultsByOperation :
    (busy (.toapd (specialValue .negative .nan))).pick =
        some (1, encode Params.standard (.toapd (specialValue .negative .nan))) ∧
      step (busy (.toapd (specialValue .negative .nan))) =
        .next { busy (.toapd (specialValue .negative .nan)) with
          ports := [Port.empty, { requests := [], responses := [.fault 3 (.special 2 1)] }], turn := 0 } ∧
      step (State.reset.withFetchWord 8 0x3F) =
        .next { State.reset with ports := [{ requests := [], responses := [.fault 5 (.command 0x3F)] }] } :=
  ⟨busy_pick _, by rfl, by rfl⟩

theorem witness_ResponsesFitTheirFields :
    State.reset.TablesReady ∧ State.reset.params.Legal ∧
      [Instr.fmtqD128, .biasexpD32 (2 ^ 31 - 1), .fromapd { u := 2 ^ 128 - 1, x := -2 ^ 31 },
        .toapd (neg (2 ^ 128 - 1) (-2 ^ 31))].all (Instr.wellFormed State.reset.params) = true :=
  ⟨reset_tablesReady, standard_legal, by decide⟩

theorem witness_TobytesRoundNeverFaults :
    State.reset.TablesReady ∧ State.reset.params.Legal ∧ (pos (2 ^ 128 - 1) (2 ^ 31 - 1)).fits State.reset.params = true :=
  ⟨reset_tablesReady, standard_legal, by decide⟩

theorem witness_TobytesExactAgrees :
    State.reset.TablesReady ∧ State.reset.params.Legal ∧ (neg 750 (-9)).fits State.reset.params = true ∧
      State.reset.tobytesExact .d32 (neg 750 (-9)) = some (.bytes (bytes [0xA1, 0xC0, 0x03, 0xD0])) :=
  ⟨reset_tablesReady, standard_legal, by decide, test_tobytes_exact⟩

end Sys2Proof.Tests
end

/-! PROOFS. The statements of 10_state.md: the unused fields of a special value (R19) and the reset values (R29). -/

namespace Sys2Proof.Machine

/-! ### The response of the operations on values, the format as an argument -/

@[simp] theorem responseOf_rescale (s : State) (f : Fmt) (v : DecimalValue) :
    responseOf s (.rescale f v) = rescaleResponse (s.descriptor f) v := by cases f <;> rfl

@[simp] theorem responseOf_round (s : State) (f : Fmt) (v : DecimalValue) :
    responseOf s (.round f v) = roundResponse (s.descriptor f) v := by cases f <;> rfl

@[simp] theorem responseOf_validate (s : State) (f : Fmt) (v : DecimalValue) :
    responseOf s (.validate f v) = validateResponse (s.descriptor f) v := by cases f <;> rfl

@[simp] theorem responseOf_encode (s : State) (f : Fmt) (v : DecimalValue) :
    responseOf s (.encode f v) = encodeResponse (s.descriptor f) v := by cases f <;> rfl

@[simp] theorem responseOf_toapd (s : State) (v : DecimalValue) : responseOf s (.toapd v) = toapdResponse v := rfl

@[simp] theorem responseOf_neg (s : State) (v : DecimalValue) : responseOf s (.neg v) = negResponse v := rfl

/-! ### What each operation answers on a special value: its sign and kind alone decide -/

section Special
variable {v : DecimalValue} (h : v.kind ≠ .finite)
include h

theorem canon_of_special : canon v = specialValue v.sign v.kind := if_neg h

theorem rescaleValue_of_special (F : Descriptor) : rescaleValue F v = specialValue v.sign v.kind := by
  rw [rescaleValue, if_neg h, canon_of_special h]

theorem roundValue_of_special (F : Descriptor) : roundValue F v = specialValue v.sign v.kind := by
  rw [roundValue, if_neg h, canon_of_special h]

theorem validateResponse_of_special (F : Descriptor) : validateResponse F v = .pass := if_neg h

theorem encodeResponse_of_special (F : Descriptor) :
    encodeResponse F v = .bytes (bytesOf F.byteLength (encodeSpecial F v.sign v.kind)) := if_neg h

theorem toapdResponse_of_special : toapdResponse v = .fault (.inconvertibleValue v.kind v.sign) := if_neg h

theorem negValue_of_special : negValue v = specialValue (flipSign v.sign) v.kind := if_neg h

end Special

/-! ### Every value in a response is canonical (10_state.md R19) -/

theorem canonical_finiteValue (s : Sign) (c : Nat) (e : Int) : Canonical (finiteValue s c e) := .inl rfl

theorem canonical_specialValue (s : Sign) (k : Kind) : Canonical (specialValue s k) := .inr ⟨rfl, rfl⟩

theorem canonical_canon (v : DecimalValue) : Canonical (canon v) := by
  by_cases h : v.kind = .finite
  · exact .inl (by rw [canon, if_pos h, h])
  · exact canon_of_special h ▸ canonical_specialValue v.sign v.kind

theorem canonical_rescaleValue (F : Descriptor) (v : DecimalValue) : Canonical (rescaleValue F v) := by
  unfold rescaleValue
  split
  · exact canonical_finiteValue ..
  · exact canonical_canon v

theorem canonical_roundValue (F : Descriptor) (v : DecimalValue) : Canonical (roundValue F v) := by
  unfold roundValue
  split
  · dsimp only
    split
    · exact canonical_specialValue ..
    · exact canonical_finiteValue ..
  · exact canonical_canon v

theorem canonical_decodeWord (F : Descriptor) (rom : Vector Triplet 1024) (W : Nat) :
    Canonical (decodeWord F rom W) := by
  unfold decodeWord
  split
  · exact canonical_specialValue ..
  · split
    · split <;> exact canonical_specialValue ..
    · exact canonical_finiteValue ..

/-- The response holds no value, or a canonical one. -/
def Response.ValueCanonical : Response → Prop
  | .value v => Canonical v
  | _ => True

@[simp] theorem Response.valueCanonical_value (v : DecimalValue) :
    (Response.value v).ValueCanonical ↔ Canonical v := Iff.rfl

theorem dpdencResponse_valueCanonical (d0 d1 d2 : Digit) : (dpdencResponse d0 d1 d2).ValueCanonical := by
  unfold dpdencResponse; split <;> trivial

theorem lenchkResponse_valueCanonical (F : Descriptor) (bs : ByteString) : (lenchkResponse F bs).ValueCanonical := by
  unfold lenchkResponse; split <;> trivial

theorem validateResponse_valueCanonical (F : Descriptor) (v : DecimalValue) :
    (validateResponse F v).ValueCanonical := by
  unfold validateResponse
  split
  · split <;> trivial
  · trivial

theorem decodeResponse_valueCanonical (F : Descriptor) (rom : Vector Triplet 1024) (bs : ByteString) :
    (decodeResponse F rom bs).ValueCanonical := by
  unfold decodeResponse
  split
  · trivial
  · exact canonical_decodeWord ..

theorem encodeResponse_valueCanonical (F : Descriptor) (v : DecimalValue) : (encodeResponse F v).ValueCanonical := by
  unfold encodeResponse
  split
  · split <;> trivial
  · trivial

theorem fromapdResponse_valueCanonical (P : Params) (a : Apd) : (fromapdResponse P a).ValueCanonical := by
  unfold fromapdResponse
  split
  · trivial
  · exact canonical_finiteValue ..

theorem toapdResponse_valueCanonical (v : DecimalValue) : (toapdResponse v).ValueCanonical := by
  unfold toapdResponse; split <;> trivial

theorem responseOf_valueCanonical (s : State) (i : Instr) : (responseOf s i).ValueCanonical := by
  cases i with
  | dpdenc d0 d1 d2 => exact dpdencResponse_valueCanonical ..
  | lenchkD32 bs | lenchkD64 bs | lenchkD128 bs => exact lenchkResponse_valueCanonical ..
  | rescaleD32 v | rescaleD64 v | rescaleD128 v => exact canonical_rescaleValue ..
  | roundD32 v | roundD64 v | roundD128 v => exact canonical_roundValue ..
  | validateD32 v | validateD64 v | validateD128 v => exact validateResponse_valueCanonical ..
  | decodeD32 bs | decodeD64 bs | decodeD128 bs => exact decodeResponse_valueCanonical ..
  | encodeD32 v | encodeD64 v | encodeD128 v => exact encodeResponse_valueCanonical ..
  | fromapd a => exact fromapdResponse_valueCanonical ..
  | toapd v => exact toapdResponse_valueCanonical v
  | neg v => exact canonical_canon _
  | dpddec | fmtqD32 | fmtqD64 | fmtqD128 | biasexpD32 | biasexpD64 | biasexpD128
  | coefchkD32 | coefchkD64 | coefchkD128 => trivial

theorem responseTo_valueCanonical (s : State) (r : Request) : (responseTo s r).ValueCanonical := by
  unfold responseTo
  split
  · exact responseOf_valueCanonical ..
  · trivial

/-! ### Reading a response back from its bits -/

/-- The zero fields of a special value read back as zero at every width, legal or not. -/
theorem Canonical.read_code {v : DecimalValue} (h : Canonical v) (P : Params) : Canonical ((v.code P).read P) := by
  refine h.imp (fun hk => ?_) fun ⟨hc, he⟩ => ?_
  · simp [DecimalValue.code, ValueField.read, hk]
  · simp [DecimalValue.code, ValueField.read, hc, he, natCode, natField, intCode, intField]

/-- Only the bits of a value read back as a value. -/
theorem Response.eq_value_of_read_code {P : Params} {r : Response} {w : DecimalValue}
    (h : (r.code P).read P = some (.value w)) : ∃ v, r = .value v ∧ w = (v.code P).read P := by
  cases r <;> simp_all [Response.code, PortResponse.read]

theorem State.ask_eq (s : State) (i : Instr) :
    s.ask i = ((responseTo s (encode s.params i)).code s.params).read s.params := by
  simp [State.ask, State.transact_eq]

theorem canonical_of_ask {s : State} {i : Instr} {w : DecimalValue} (h : s.ask i = some (.value w)) : Canonical w := by
  rw [State.ask_eq] at h
  obtain ⟨v, hv, rfl⟩ := Response.eq_value_of_read_code h
  have hcan := responseTo_valueCanonical s (encode s.params i)
  rw [hv, Response.valueCanonical_value] at hcan
  exact hcan.read_code s.params

theorem Canonical.eq_specialValue {v : DecimalValue} (h : Canonical v) (hk : v.kind ≠ .finite) :
    v = specialValue v.sign v.kind := by
  obtain ⟨hc, he⟩ := h.resolve_left hk
  cases v
  simp_all [specialValue]

/-- Settles O6: on a special operand each of the six operations answers from sign and kind alone, and every value in a
response is canonical. -/
theorem specialFieldsIgnored : Obligations.SpecialFieldsIgnored := by
  refine ⟨fun s f v w hv hk hs => ?_, fun s i v h hv => (canonical_of_ask h).eq_specialValue hv⟩
  simp [exec_eq_deliver, rescaleResponse, roundResponse, negResponse, rescaleValue_of_special, roundValue_of_special,
    validateResponse_of_special, encodeResponse_of_special, toapdResponse_of_special, negValue_of_special, hv, hk, hs]

/-! ### Reset and the tables -/

/-- No step writes a constant table: delivering a response does not (10_state.md R29). -/
theorem step_tables {s t : State} (h : step s = .next t) : t.romFmt = s.romFmt ∧ t.romDpd = s.romDpd := by
  rcases step_cases s with ⟨-, hs⟩ | ⟨k, r, -, hs⟩
  · cases hs.symm.trans h
    exact ⟨rfl, rfl⟩
  · cases hs.symm.trans h
    exact ⟨State.deliver_romFmt .., State.deliver_romDpd ..⟩

theorem State.afterReset_tablesReady (P : Params) : (State.afterReset P).TablesReady := ⟨rfl, rfl⟩

theorem State.applyReset_tablesReady (s : State) : s.applyReset.TablesReady := State.afterReset_tablesReady s.params

theorem State.eq_empty_of_mem_applyReset {s : State} {p : Port} (h : p ∈ s.applyReset.ports) : p = Port.empty :=
  List.eq_of_mem_replicate h

/-- The rows of 40_dpd_codec.md R66 are the Boolean equations of R67: by the bits that select the row. -/
theorem dpdDec_eq_logic (g : Group) : dpdDec g = dpdDecLogic g := by
  unfold dpdDec dpdDecLogic
  generalize g.getLsbD 3 = v, g.getLsbD 2 = w, g.getLsbD 1 = x, g.getLsbD 6 = s, g.getLsbD 5 = t
  cases v
  · simp
  · cases w <;> cases x
    · simp
    · simp
    · simp
    · cases s <;> cases t <;> simp

/-- Settles O18: no step writes a table, and reset gives every piece of state its value of R29. -/
theorem resetValues : Obligations.ResetValues := by
  refine ⟨fun s t h => step_tables h, fun s => ⟨fun f => ?_, fun g => ?_, ?_, fun p hp => ?_⟩⟩
  · exact s.applyReset_tablesReady.descriptor_eq f
  · rw [s.applyReset_tablesReady.romRead_eq, dpdDec_eq_logic]
  · exact List.length_replicate
  · rw [State.eq_empty_of_mem_applyReset hp]
    exact ⟨rfl, rfl⟩

end Sys2Proof.Machine

/-! PROOFS. The statements of 30_encoding.md: which command bytes decode (R47) and what the others are answered (R48). -/

namespace Sys2Proof

/-! ### The three fields of a command byte (30_encoding.md R43) and the format code (R44) -/

@[simp] theorem cmdRsv_toNat (cmd : BitVec 8) : (cmdRsv cmd).toNat = cmd.toNat / 64 := by
  have := cmd.isLt
  simp only [cmdRsv, BitVec.extractLsb'_toNat, Nat.shiftRight_eq_div_pow]
  omega

@[simp] theorem cmdFmt_toNat (cmd : BitVec 8) : (cmdFmt cmd).toNat = cmd.toNat / 16 % 4 := by
  simp [cmdFmt, Nat.shiftRight_eq_div_pow]

@[simp] theorem cmdOp_toNat (cmd : BitVec 8) : (cmdOp cmd).toNat = cmd.toNat % 16 := by
  simp [cmdOp]

theorem cmdRsv_eq_zero_iff {cmd : BitVec 8} : cmdRsv cmd = 0 ↔ cmd.toNat / 64 = 0 := by
  rw [← BitVec.toNat_inj, cmdRsv_toNat]; rfl

theorem fmtOfCode_eq_some_iff {c : BitVec 2} {f : Fmt} : fmtOfCode c = some f ↔ c.toNat = f.index := by
  cases f <;> decide +revert

theorem exists_fmtOfCode {c : BitVec 2} (h : c.toNat ≠ 3) : ∃ f, fmtOfCode c = some f := by
  rw [← Option.isSome_iff_exists]
  decide +revert

/-! ### The command byte of the format-dependent operations, the format as an argument (30_encoding.md R47) -/

section CommandByte
variable (f : Fmt) (z : Int) (bs : ByteString) (v : DecimalValue)

@[simp] theorem commandByte_fmtq : (Instr.fmtq f).commandByte.toNat = 16 * f.index + 0x2 := by cases f <;> rfl
@[simp] theorem commandByte_biasexp : (Instr.biasexp f z).commandByte.toNat = 16 * f.index + 0x3 := by cases f <;> rfl
@[simp] theorem commandByte_coefchk : (Instr.coefchk f z).commandByte.toNat = 16 * f.index + 0x4 := by cases f <;> rfl
@[simp] theorem commandByte_lenchk : (Instr.lenchk f bs).commandByte.toNat = 16 * f.index + 0x5 := by cases f <;> rfl
@[simp] theorem commandByte_rescale : (Instr.rescale f v).commandByte.toNat = 16 * f.index + 0x6 := by cases f <;> rfl
@[simp] theorem commandByte_round : (Instr.round f v).commandByte.toNat = 16 * f.index + 0x7 := by cases f <;> rfl
@[simp] theorem commandByte_validate : (Instr.validate f v).commandByte.toNat = 16 * f.index + 0x8 := by cases f <;> rfl
@[simp] theorem commandByte_decode : (Instr.decode f bs).commandByte.toNat = 16 * f.index + 0x9 := by cases f <;> rfl
@[simp] theorem commandByte_encode : (Instr.encode f v).commandByte.toNat = 16 * f.index + 0xA := by cases f <;> rfl

end CommandByte

/-! ### What the decoder accepts -/

theorem independent_eq_ok_iff {f : Fmt} {i j : Instr} : independent f i = .ok j ↔ f = .d32 ∧ i = j := by
  cases f <;> simp [independent]

/-- The operation number and the format are the lower six bits of the command byte of what is decoded from them. -/
theorem commandByte_of_decodeOp {P : Params} {f : Fmt} {op : BitVec 4} {p : Payload} {i : Instr}
    (h : decodeOp P f op p = .ok i) : i.commandByte.toNat = 16 * f.index + op.toNat := by
  unfold decodeOp at h
  split at h
  case h_15 => cases h
  case h_1 | h_2 | h_12 | h_13 | h_14 =>
    obtain ⟨rfl, rfl⟩ := independent_eq_ok_iff.1 h
    simp_all [Instr.commandByte, Fmt.index]
  all_goals
    cases h
    simp_all

/-- The operation numbers below 0xE decode, those that take no format with the format code 0 only (30_encoding.md R45, R46). -/
theorem exists_decodeOp (P : Params) {f : Fmt} {op : BitVec 4} (p : Payload) (hop : op.toNat < 14)
    (hf : op.toNat ∈ [0x0, 0x1, 0xB, 0xC, 0xD] → f = .d32) : ∃ i, decodeOp P f op p = .ok i := by
  unfold decodeOp
  split
  case h_15 => grind
  case h_1 | h_2 | h_12 | h_13 | h_14 =>
    exact ⟨_, independent_eq_ok_iff.2 ⟨hf (by simp_all), rfl⟩⟩
  all_goals exact ⟨_, rfl⟩

/-- Decoding to an instruction: no reserved bit, a format, and an operation of that format. -/
theorem decode_eq_ok_iff {P : Params} {r : Request} {i : Instr} :
    decode P r = .ok i ↔
      cmdRsv r.cmd = 0 ∧ ∃ f, fmtOfCode (cmdFmt r.cmd) = some f ∧ decodeOp P f (cmdOp r.cmd) r.payload = .ok i := by
  unfold decode
  split
  case isTrue hrsv => exact ⟨nofun, fun h => absurd h.1 hrsv⟩
  case isFalse hrsv => cases fmtOfCode (cmdFmt r.cmd) <;> simp_all

theorem commandByte_of_decode {P : Params} {r : Request} {i : Instr} (h : decode P r = .ok i) :
    i.commandByte = r.cmd := by
  obtain ⟨hrsv, f, hf, hop⟩ := decode_eq_ok_iff.1 h
  have hbyte := commandByte_of_decodeOp hop
  rw [cmdRsv_eq_zero_iff] at hrsv
  rw [fmtOfCode_eq_some_iff, cmdFmt_toNat] at hf
  rw [cmdOp_toNat] at hbyte
  exact BitVec.eq_of_toNat_eq (by omega)

end Sys2Proof

namespace Sys2Proof.Machine

/-! ### The legal and the illegal bytes (30_encoding.md R47, R48) -/

/-- None of the four clauses of R48 holds. -/
theorem illegalByte_eq_false_iff {cmd : BitVec 8} :
    illegalByte cmd = false ↔
      cmd.toNat / 64 = 0 ∧ cmd.toNat / 16 % 4 ≠ 3 ∧ cmd.toNat % 16 < 14 ∧
        (cmd.toNat % 16 ∈ [0x0, 0x1, 0xB, 0xC, 0xD] → cmd.toNat / 16 % 4 = 0) := by
  rw [illegalByte, decide_eq_false_iff_not]
  push Not
  rfl

@[simp] theorem illegalByte_commandByte (i : Instr) : illegalByte i.commandByte = false := by
  cases i <;> (rw [Instr.commandByte]; decide)

/-- A request decodes exactly when no clause of R48 holds of its command byte, whatever its payload. -/
theorem exists_decode_iff {P : Params} {r : Request} : (∃ i, decode P r = .ok i) ↔ illegalByte r.cmd = false := by
  constructor
  · rintro ⟨i, hi⟩
    rw [← commandByte_of_decode hi, illegalByte_commandByte]
  · intro h
    obtain ⟨hrsv, hfmt, hop, hind⟩ := illegalByte_eq_false_iff.1 h
    obtain ⟨f, hf⟩ := exists_fmtOfCode (c := cmdFmt r.cmd) (by rwa [cmdFmt_toNat])
    have hindex := fmtOfCode_eq_some_iff.1 hf
    rw [cmdFmt_toNat] at hindex
    obtain ⟨i, hi⟩ : ∃ i, decodeOp P f (cmdOp r.cmd) r.payload = .ok i := by
      refine exists_decodeOp P r.payload (by rwa [cmdOp_toNat]) fun hmem => ?_
      rw [cmdOp_toNat] at hmem
      have hzero := hindex.symm.trans (hind hmem)
      cases f <;> simp_all [Fmt.index]
    exact ⟨i, decode_eq_ok_iff.2 ⟨cmdRsv_eq_zero_iff.2 hrsv, f, hf, hi⟩⟩

theorem responseTo_of_illegalByte (s : State) {r : Request} (h : illegalByte r.cmd = true) :
    responseTo s r = .fault (.illegalCommand r.cmd) := by
  cases hd : decode s.params r with
  | ok i => simp [exists_decode_iff.1 ⟨i, hd⟩] at h
  | error e => simp [responseTo, hd]

/-- A step that serves a request delivers its response. -/
theorem step_of_pick {s : State} {k : Nat} {r : Request} (h : s.pick = some (k, r)) :
    step s = .next (s.deliver (responseTo s r)) := by
  rcases step_cases s with ⟨hnone, -⟩ | ⟨j, q, hq, hs⟩
  · simp [hnone] at h
  · cases hq.symm.trans h
    exact hs

/-- Settles O3: R47's list holds the bytes of which no clause of R48 holds, and those are the bytes that decode. -/
theorem legalCommandBytes : Obligations.LegalCommandBytes := by
  refine fun P cmd p => ⟨exists_decode_iff.trans ?_, fun i h => commandByte_of_decode h⟩
  dsimp only
  rw [illegalByte_eq_false_iff]
  simp only [List.mem_cons, List.not_mem_nil, or_false]
  have := cmd.isLt
  omega

/-- Settles O4: no request with an illegal byte decodes, so a step that serves one delivers the fault. -/
theorem illegalCommandFaults : Obligations.IllegalCommandFaults := by
  refine ⟨by decide +kernel, fun s k r hpick hbad => ?_⟩
  rw [step_of_pick hpick, responseTo_of_illegalByte s hbad]

end Sys2Proof.Machine

/-! PROOFS. The statements of 40_dpd_codec.md: a group and a digit as their bits (R63), the eight rows of encoding (R64) and
of decoding (R66), and the laws of the pair (R70, R71). -/

namespace Sys2Proof.Machine

/-! ### A group and a digit as the string of their bits (40_dpd_codec.md R63) -/

theorem ofNat_two_mul_add_toNat (w n : Nat) (b : Bool) :
    BitVec.ofNat (w + 1) (2 * n + b.toNat) = (BitVec.ofNat w n).concat b := by
  apply BitVec.eq_of_toNat_eq
  have hb := b.toNat_lt
  have hdiv : (2 * n + b.toNat) / 2 = n := by omega
  rw [BitVec.toNat_concat, BitVec.toNat_ofNat, BitVec.toNat_ofNat, pow_succ', Nat.mod_mul, hdiv]
  omega

theorem groupOf_eq_concat (p q r s t u v w x y : Bool) :
    groupOf p q r s t u v w x y =
      (((((((((BitVec.nil.concat p).concat q).concat r).concat s).concat t).concat u).concat v).concat
        w).concat x).concat y := by
  have hnil : BitVec.nil = BitVec.ofNat 0 0 := rfl
  simp only [hnil, ← ofNat_two_mul_add_toNat]
  exact congrArg (BitVec.ofNat 10) (by ring)

theorem digitOf_eq_concat (a b c d : Bool) :
    digitOf a b c d = (((BitVec.nil.concat a).concat b).concat c).concat d := by
  have hnil : BitVec.nil = BitVec.ofNat 0 0 := rfl
  simp only [hnil, ← ofNat_two_mul_add_toNat]
  exact congrArg (BitVec.ofNat 4) (by ring)

section Bits
variable (p q r s t u v w x y : Bool)

@[simp] theorem groupOf_bit9 : (groupOf p q r s t u v w x y)[9] = p := by simp [groupOf_eq_concat]
@[simp] theorem groupOf_bit8 : (groupOf p q r s t u v w x y)[8] = q := by simp [groupOf_eq_concat]
@[simp] theorem groupOf_bit7 : (groupOf p q r s t u v w x y)[7] = r := by simp [groupOf_eq_concat]
@[simp] theorem groupOf_bit6 : (groupOf p q r s t u v w x y)[6] = s := by simp [groupOf_eq_concat]
@[simp] theorem groupOf_bit5 : (groupOf p q r s t u v w x y)[5] = t := by simp [groupOf_eq_concat]
@[simp] theorem groupOf_bit4 : (groupOf p q r s t u v w x y)[4] = u := by simp [groupOf_eq_concat]
@[simp] theorem groupOf_bit3 : (groupOf p q r s t u v w x y)[3] = v := by simp [groupOf_eq_concat]
@[simp] theorem groupOf_bit2 : (groupOf p q r s t u v w x y)[2] = w := by simp [groupOf_eq_concat]
@[simp] theorem groupOf_bit1 : (groupOf p q r s t u v w x y)[1] = x := by simp [groupOf_eq_concat]
@[simp] theorem groupOf_bit0 : (groupOf p q r s t u v w x y)[0] = y := by simp [groupOf_eq_concat]

@[simp] theorem digitOf_bit3 : (digitOf p q r s)[3] = p := by simp [digitOf_eq_concat]
@[simp] theorem digitOf_bit2 : (digitOf p q r s)[2] = q := by simp [digitOf_eq_concat]
@[simp] theorem digitOf_bit1 : (digitOf p q r s)[1] = r := by simp [digitOf_eq_concat]
@[simp] theorem digitOf_bit0 : (digitOf p q r s)[0] = s := by simp [digitOf_eq_concat]

end Bits

/-- Every group is the string of its ten bits. -/
theorem exists_groupOf (code : Group) : ∃ p q r s t u v w x y, code = groupOf p q r s t u v w x y := by
  refine ⟨code.getLsbD 9, code.getLsbD 8, code.getLsbD 7, code.getLsbD 6, code.getLsbD 5, code.getLsbD 4,
    code.getLsbD 3, code.getLsbD 2, code.getLsbD 1, code.getLsbD 0, BitVec.eq_of_getLsbD_eq fun i hi => ?_⟩
  interval_cases i <;> simp

/-- Every digit is the string of its four bits. -/
theorem exists_digitOf (n : Digit) : ∃ a b c d, n = digitOf a b c d := by
  refine ⟨n.getLsbD 3, n.getLsbD 2, n.getLsbD 1, n.getLsbD 0, BitVec.eq_of_getLsbD_eq fun i hi => ?_⟩
  interval_cases i <;> simp

theorem digitOf_le_nine_iff {a b c d : Bool} :
    (digitOf a b c d).toNat ≤ 9 ↔ a = false ∨ (b = false ∧ c = false) := by
  decide +revert

/-- A digit from 0 to 9 is small, or large with its middle bits 0. -/
theorem small_or_large {n : Digit} (h : n.toNat ≤ 9) :
    (∃ b c d, n = digitOf false b c d) ∨ ∃ d, n = digitOf true false false d := by
  obtain ⟨a, b, c, d, rfl⟩ := exists_digitOf n
  cases a with
  | false => exact .inl ⟨b, c, d, rfl⟩
  | true =>
    obtain ⟨rfl, rfl⟩ : b = false ∧ c = false := by simpa using digitOf_le_nine_iff.1 h
    exact .inr ⟨d, rfl⟩

/-! ### The rows of encoding and of decoding -/

/-- Three digits from 0 to 9 are of one of the eight rows of R64: which of them are large. -/
theorem encode_rows {motive : Digit → Digit → Digit → Prop} {x y z : Digit}
    (hx : x.toNat ≤ 9) (hy : y.toNat ≤ 9) (hz : z.toNat ≤ 9)
    (small : ∀ b c d f g h j k m, motive (digitOf false b c d) (digitOf false f g h) (digitOf false j k m))
    (d2 : ∀ b c d f g h m, motive (digitOf false b c d) (digitOf false f g h) (digitOf true false false m))
    (d1 : ∀ b c d h j k m, motive (digitOf false b c d) (digitOf true false false h) (digitOf false j k m))
    (d0 : ∀ d f g h j k m, motive (digitOf true false false d) (digitOf false f g h) (digitOf false j k m))
    (d0d1 : ∀ d h j k m, motive (digitOf true false false d) (digitOf true false false h) (digitOf false j k m))
    (d0d2 : ∀ d f g h m, motive (digitOf true false false d) (digitOf false f g h) (digitOf true false false m))
    (d1d2 : ∀ b c d h m, motive (digitOf false b c d) (digitOf true false false h) (digitOf true false false m))
    (all : ∀ d h m, motive (digitOf true false false d) (digitOf true false false h) (digitOf true false false m))
    : motive x y z := by
  obtain ⟨b, c, d, rfl⟩ | ⟨d, rfl⟩ := small_or_large hx <;>
  obtain ⟨f, g, h, rfl⟩ | ⟨h, rfl⟩ := small_or_large hy <;>
  obtain ⟨j, k, m, rfl⟩ | ⟨m, rfl⟩ := small_or_large hz
  · exact small ..
  · exact d2 ..
  · exact d1 ..
  · exact d1d2 ..
  · exact d0 ..
  · exact d0d2 ..
  · exact d0d1 ..
  · exact all ..

theorem dpdEnc_eq_logic {x y z : Digit} (hx : x.toNat ≤ 9) (hy : y.toNat ≤ 9) (hz : z.toNat ≤ 9) :
    dpdEnc x y z = dpdEncLogic x y z := by
  apply encode_rows hx hy hz <;> intros <;> simp [dpdEnc, dpdEncLogic]

theorem dpdDec_dpdEnc {x y z : Digit} (hx : x.toNat ≤ 9) (hy : y.toNat ≤ 9) (hz : z.toNat ≤ 9) :
    dpdDec (dpdEnc x y z) = { d0 := x, d1 := y, d2 := z } := by
  apply encode_rows hx hy hz <;> intros <;> simp [dpdEnc, dpdDec]

/-- A group is of one of the eight rows of R66: which digits it makes large. -/
theorem decode_rows {motive : Group → Prop}
    (small : ∀ p q r s t u w x y, motive (groupOf p q r s t u false w x y))
    (d2 : ∀ p q r s t u y, motive (groupOf p q r s t u true false false y))
    (d1 : ∀ p q r s t u y, motive (groupOf p q r s t u true false true y))
    (d0 : ∀ p q r s t u y, motive (groupOf p q r s t u true true false y))
    (d0d1 : ∀ p q r u y, motive (groupOf p q r false false u true true true y))
    (d0d2 : ∀ p q r u y, motive (groupOf p q r false true u true true true y))
    (d1d2 : ∀ p q r u y, motive (groupOf p q r true false u true true true y))
    (all : ∀ p q r u y, motive (groupOf p q r true true u true true true y))
    (code : Group) : motive code := by
  obtain ⟨p, q, r, s, t, u, v, w, x, y, rfl⟩ := exists_groupOf code
  match v, w, x, s, t with
  | false, _, _, _, _ => exact small ..
  | true, false, false, _, _ => exact d2 ..
  | true, false, true, _, _ => exact d1 ..
  | true, true, false, _, _ => exact d0 ..
  | true, true, true, false, false => exact d0d1 ..
  | true, true, true, false, true => exact d0d2 ..
  | true, true, true, true, false => exact d1d2 ..
  | true, true, true, true, true => exact all ..

/-- Every digit decoding gives is 0 to 9 (40_dpd_codec.md R66). -/
theorem dpdDec_le_nine (code : Group) :
    (dpdDec code).d0.toNat ≤ 9 ∧ (dpdDec code).d1.toNat ≤ 9 ∧ (dpdDec code).d2.toNat ≤ 9 := by
  induction code using decode_rows <;> simp [dpdDec, digitOf_le_nine_iff]

/-! ### The all-highs codes and the canonical ones (40_dpd_codec.md R70) -/

/-- The code is of the last row of R66, which does not use its top two bits. -/
def allHighs (code : Group) : Prop := code &&& 0x06E = 0x06E

theorem allHighs_and_0x0FF {code : Group} : allHighs (code &&& 0x0FF) ↔ allHighs code := by
  have hmask : (0x0FF &&& 0x06E : Group) = 0x06E := by decide
  rw [allHighs, BitVec.and_assoc, hmask, allHighs]

theorem and_0x0FF_eq_self {code : Group} (h : code &&& 0x300 = 0) : code &&& 0x0FF = code := by
  have hmask : (0x0FF ||| 0x300 : Group) = BitVec.allOnes 10 := by decide
  calc code &&& 0x0FF = code &&& 0x0FF ||| code &&& 0x300 := by rw [h]; exact BitVec.or_zero.symm
    _ = code := by rw [← BitVec.and_or_distrib_left, hmask, BitVec.and_allOnes]

theorem canonicalGroup_of_allHighs {code : Group} (h : allHighs code) : canonicalGroup code = code &&& 0x0FF := by
  by_cases htop : code &&& 0x300 = 0
  · rw [canonicalGroup, and_0x0FF_eq_self htop, ite_self]
  · exact if_pos (decide_eq_true ⟨h, htop⟩)

theorem canonicalGroup_of_not_allHighs {code : Group} (h : ¬ allHighs code) : canonicalGroup code = code :=
  if_neg fun hred => h (of_decide_eq_true hred).1

theorem allHighs_canonicalGroup {code : Group} : allHighs (canonicalGroup code) ↔ allHighs code := by
  by_cases h : allHighs code
  · rw [canonicalGroup_of_allHighs h, allHighs_and_0x0FF]
  · rw [canonicalGroup_of_not_allHighs h]

theorem redundantGroup_canonicalGroup (code : Group) : redundantGroup (canonicalGroup code) = false := by
  cases hred : redundantGroup code with
  | false => rw [canonicalGroup, hred, if_neg Bool.false_ne_true, hred]
  | true =>
    have hmask : (0x0FF &&& 0x300 : Group) = 0 := by decide
    have htop : code &&& 0x0FF &&& 0x300 = 0 := by rw [BitVec.and_assoc, hmask]; exact BitVec.and_zero
    rw [canonicalGroup, hred, if_pos rfl, redundantGroup]
    exact decide_eq_false fun h => h.2 htop

theorem canonicalGroup_eq_iff {g h : Group} : canonicalGroup g = canonicalGroup h ↔
    g = h ∨ (allHighs g ∧ allHighs h ∧ g &&& 0x0FF = h &&& 0x0FF) := by
  constructor
  · intro heq
    have hiff : allHighs g ↔ allHighs h := by rw [← allHighs_canonicalGroup, heq, allHighs_canonicalGroup]
    by_cases hg : allHighs g
    · have hh := hiff.1 hg
      rw [canonicalGroup_of_allHighs hg, canonicalGroup_of_allHighs hh] at heq
      exact .inr ⟨hg, hh, heq⟩
    · rw [canonicalGroup_of_not_allHighs hg, canonicalGroup_of_not_allHighs (hiff.not.1 hg)] at heq
      exact .inl heq
  · rintro (rfl | ⟨hg, hh, hlow⟩)
    · rfl
    · rw [canonicalGroup_of_allHighs hg, canonicalGroup_of_allHighs hh, hlow]

section Masks
variable (p q r s t u v w x y : Bool)

theorem groupOf_and_groupOf (p' q' r' s' t' u' v' w' x' y' : Bool) :
    groupOf p q r s t u v w x y &&& groupOf p' q' r' s' t' u' v' w' x' y' =
      groupOf (p && p') (q && q') (r && r') (s && s') (t && t') (u && u') (v && v') (w && w') (x && x') (y && y') := by
  simp [groupOf_eq_concat]

theorem groupOf_and_0x0FF :
    groupOf p q r s t u v w x y &&& 0x0FF = groupOf false false r s t u v w x y := by
  have hmask : (0x0FF : Group) = groupOf false false true true true true true true true true := by decide
  rw [hmask, groupOf_and_groupOf]
  simp only [Bool.and_false, Bool.and_true]

theorem allHighs_groupOf :
    allHighs (groupOf p q r s t u v w x y) ↔ s ∧ t ∧ v ∧ w ∧ x := by
  have hmask : (0x06E : Group) = groupOf false false false true true false true true true false := by decide
  rw [allHighs, hmask, groupOf_and_groupOf]
  simp only [Bool.and_false, Bool.and_true]
  decide +revert

end Masks

/-! ### The laws of the pair (40_dpd_codec.md R71) -/

/-- Encoding what a code decodes to gives its canonical code. -/
theorem dpdEnc_dpdDec (code : Group) :
    dpdEnc (dpdDec code).d0 (dpdDec code).d1 (dpdDec code).d2 = canonicalGroup code := by
  induction code using decode_rows with
  | all p q r u y =>
    rw [canonicalGroup_of_allHighs (by simp [allHighs_groupOf]), groupOf_and_0x0FF]
    simp [dpdEnc, dpdDec]
  | _ =>
    rw [canonicalGroup_of_not_allHighs (by simp [allHighs_groupOf])]
    simp [dpdEnc, dpdDec]

theorem dpdDec_canonicalGroup (code : Group) : dpdDec (canonicalGroup code) = dpdDec code := by
  obtain ⟨h0, h1, h2⟩ := dpdDec_le_nine code
  rw [← dpdEnc_dpdDec, dpdDec_dpdEnc h0 h1 h2]

/-- Two codes decode alike exactly when their canonical code is one. -/
theorem dpdDec_eq_iff {g h : Group} : dpdDec g = dpdDec h ↔ canonicalGroup g = canonicalGroup h := by
  constructor
  · intro heq
    rw [← dpdEnc_dpdDec, ← dpdEnc_dpdDec, heq]
  · intro heq
    rw [← dpdDec_canonicalGroup g, heq, dpdDec_canonicalGroup]

theorem redundantGroup_dpdEnc {x y z : Digit} (hx : x.toNat ≤ 9) (hy : y.toNat ≤ 9) (hz : z.toNat ≤ 9) :
    redundantGroup (dpdEnc x y z) = false := by
  have hcanon : dpdEnc x y z = canonicalGroup (dpdEnc x y z) := by rw [← dpdEnc_dpdDec, dpdDec_dpdEnc hx hy hz]
  rw [hcanon, redundantGroup_canonicalGroup]

/-! ### The two instructions (40_dpd_codec.md R68, R69) -/

theorem digitLegal_iff {d : Digit} : digitLegal d = true ↔ d.toNat ≤ 9 := decide_eq_true_iff

theorem dpdencResponse_of_le_nine {x y z : Digit} (hx : x.toNat ≤ 9) (hy : y.toNat ≤ 9) (hz : z.toNat ≤ 9) :
    dpdencResponse x y z = .group (dpdEnc x y z) := by
  simp [dpdencResponse, digitLegal_iff, hx, hy, hz]

theorem dpdencResponse_of_nine_lt {x y z : Digit} (h : 9 < x.toNat ∨ 9 < y.toNat ∨ 9 < z.toNat) :
    dpdencResponse x y z = .fault (.illegalOperand .digit) := by
  refine if_neg ?_
  simp only [Bool.and_eq_true, digitLegal_iff]
  omega

/-- Settles O20: on digits 0 to 9 the rows of R64 are the equations of R65, and no encoding is redundant. -/
theorem dpdencResult : Obligations.DpdencResult := by
  refine fun s d0 d1 d2 => ⟨fun ⟨h0, h1, h2⟩ => ?_, fun h => ?_⟩
  · rw [← dpdEnc_eq_logic h0 h1 h2, ← dpdencResponse_of_le_nine h0 h1 h2]
    exact ⟨exec_eq_deliver .., redundantGroup_dpdEnc h0 h1 h2⟩
  · rw [← dpdencResponse_of_nine_lt h]
    exact exec_eq_deliver ..

/-- Settles O21: DPDDEC reads the table, which holds the rows of R66, and those are the equations of R67. -/
theorem dpddecResult : Obligations.DpddecResult := by
  intro s g hs
  rw [← dpdDec_eq_logic, ← hs.romRead_eq]
  exact exec_eq_deliver ..

theorem length_filter_redundantGroup :
    ((List.range 1024).filter fun n => redundantGroup (BitVec.ofNat 10 n)).length = 24 := by
  decide +kernel

/-- Settles O22: the count by enumeration of the codes, and the laws through the canonical code of each. -/
theorem dpdLaws : Obligations.DpdLaws :=
  ⟨length_filter_redundantGroup, fun _ _ _ h0 h1 h2 => ⟨dpdDec_dpdEnc h0 h1 h2, redundantGroup_dpdEnc h0 h1 h2⟩,
    dpdDec_le_nine, dpdEnc_dpdDec, fun _ _ => dpdDec_eq_iff.trans canonicalGroup_eq_iff⟩

end Sys2Proof.Machine

/-! PROOFS. The statements of 42_format_descriptor.md: the four operations on Format Descriptors (R86 to R89) and which entry of
`ROM_FMT` an operation reads (R90). -/

namespace Sys2Proof

/-- The sum of an integer of a `w`-bit field and a natural of at most half its range needs one bit more and no second one
(42_format_descriptor.md R87). -/
theorem fitsInt_add_natCast {w n : Nat} {z : Int} (hw : 0 < w) (hz : fitsInt w z = true) (hn : n ≤ 2 ^ (w - 1)) :
    fitsInt (w + 1) (z + n) = true := by
  obtain ⟨v, rfl⟩ : ∃ v, w = v + 1 := ⟨w - 1, by omega⟩
  simp only [fitsInt, Nat.add_sub_cancel, decide_eq_true_iff] at hz hn ⊢
  have hpow : (2 : Int) ^ (v + 1) = 2 * 2 ^ v := pow_succ' 2 v
  have hn' : (n : Int) ≤ 2 ^ v := mod_cast hn
  omega

end Sys2Proof

namespace Sys2Proof.Machine

/-! ### The response of the Format Descriptor operations, the format as an argument -/

section ResponseOf
variable (s : State) (f : Fmt)

@[simp] theorem responseOf_fmtq : responseOf s (.fmtq f) = fmtqResponse (s.descriptor f) := by cases f <;> rfl

@[simp] theorem responseOf_biasexp (e : Int) :
    responseOf s (.biasexp f e) = biasexpResponse (s.descriptor f) e := by cases f <;> rfl

@[simp] theorem responseOf_coefchk (u : Int) :
    responseOf s (.coefchk f u) = coefchkResponse (s.descriptor f) u := by cases f <;> rfl

@[simp] theorem responseOf_lenchk (bs : ByteString) :
    responseOf s (.lenchk f bs) = lenchkResponse (s.descriptor f) bs := by cases f <;> rfl

end ResponseOf

/-! ### The constants of R85 -/

@[simp] theorem descriptorTable_byteLength (f : Fmt) : (descriptorTable f).byteLength = f.totalBits / 8 := by
  cases f <;> rfl

@[simp] theorem descriptorTable_maxCoefficient (f : Fmt) :
    ((descriptorTable f).maxCoefficient : Int) = 10 ^ f.coefficientDigits - 1 := by
  cases f <;> rfl

theorem descriptorTable_exponentBias_le (f : Fmt) : (descriptorTable f).exponentBias ≤ 2 ^ 15 := by
  cases f <;> decide

/-- A coefficient field of a legal width holds every coefficient of every format (00_scope.md R8). -/
theorem ten_pow_coefficientDigits_le {P : Params} (hP : P.Legal) (f : Fmt) :
    (10 : Int) ^ f.coefficientDigits ≤ 2 ^ P.coefw :=
  calc (10 : Int) ^ f.coefficientDigits ≤ 2 ^ 113 := by cases f <;> decide
    _ ≤ 2 ^ P.coefw := pow_le_pow_right₀ (by decide) hP.coefw_ge

/-! ### The four operations -/

/-- Settles O23: FMTQ answers the entry it reads, and the complete table holds R85's constants. -/
theorem fmtqResult : Obligations.FmtqResult := by
  intro s f hs
  rw [exec_eq_deliver, responseOf_fmtq, hs.descriptor_eq, fmtqResponse]

/-- At a legal width the result field of BIASEXP holds the sum for every operand (R87). -/
theorem fitsInt_biased {P : Params} (hP : P.Legal) (f : Fmt) {e : Int} (he : fitsInt P.expw e = true) :
    fitsInt (P.expw + 1) (e + (descriptorTable f).exponentBias) = true := by
  have hw := hP.expw_ge
  have hbias : (descriptorTable f).exponentBias ≤ 2 ^ (P.expw - 1) :=
    (descriptorTable_exponentBias_le f).trans (Nat.pow_le_pow_right (by decide) (by omega))
  exact fitsInt_add_natCast (by omega) he hbias

/-- Settles O24: the sum is exact, and its field is wide enough to read it back. -/
theorem biasexpResult : Obligations.BiasexpResult := by
  refine fun s f e hs => ⟨?_, fun hP he => ?_⟩
  · rw [exec_eq_deliver, responseOf_biasexp, hs.descriptor_eq, biasexpResponse, biased]
  · rw [Response.code, PortResponse.read, intField_intCode (Nat.succ_pos _) (fitsInt_biased hP f he)]

theorem exec_coefchk {s : State} (hs : s.TablesReady) (f : Fmt) (u : Int) :
    exec (.coefchk f u) s =
      .next (s.deliver (.bool (decide (-(10 ^ f.coefficientDigits - 1) ≤ u ∧ u ≤ 10 ^ f.coefficientDigits - 1)))) := by
  rw [exec_eq_deliver, responseOf_coefchk, hs.descriptor_eq, coefchkResponse, coefficientInRange,
    descriptorTable_maxCoefficient]

/-- Settles O25: the test against `maxCoefficient = 10^p - 1`; `-2^COEFW` lies below its lower bound at every legal width. -/
theorem coefchkResult : Obligations.CoefchkResult := by
  refine fun s f u hs => ⟨exec_coefchk hs f u, fun hP hu => ?_⟩
  have hwidth := ten_pow_coefficientDigits_le hP f
  rw [exec_coefchk hs, decide_eq_false (by omega)]

theorem lenchkResponse_of_eq {F : Descriptor} {bs : ByteString} (h : bs.len.toNat = F.byteLength) :
    lenchkResponse F bs = .pass := by
  simp [lenchkResponse, lengthFault, h]

theorem lenchkResponse_of_ne {F : Descriptor} {bs : ByteString} (h : bs.len.toNat ≠ F.byteLength) :
    lenchkResponse F bs = .fault (.lengthError bs.len.toNat F.byteLength) := by
  simp [lenchkResponse, lengthFault, raise, h]

/-- Settles O26: LENCHK compares the length with the descriptor's, which is `totalBits / 8`, and reads no data byte. -/
theorem lenchkResult : Obligations.LenchkResult := by
  intro s f bs hs
  rw [exec_eq_deliver, responseOf_lenchk, hs.descriptor_eq, ← descriptorTable_byteLength]
  exact ⟨fun h => by rw [lenchkResponse_of_eq h], fun h => by rw [lenchkResponse_of_ne h]⟩

/-! ### Which entry of `ROM_FMT` an operation reads (R90) -/

/-- Besides the parameters and the DPD table a response depends on the descriptor of the instruction's own format only. -/
theorem responseOf_congr_of_format {s t : State} {i : Instr} (hp : t.params = s.params) (hd : t.romDpd = s.romDpd)
    (hf : ∀ f, i.format = some f → t.descriptor f = s.descriptor f) : responseOf t i = responseOf s i := by
  cases i with
  | dpdenc | toapd | neg => rfl
  | dpddec g => rw [responseOf, responseOf, hd]
  | fromapd a => rw [responseOf, responseOf, hp]
  | decodeD32 bs | decodeD64 bs | decodeD128 bs => rw [responseOf, responseOf, hd, hf _ rfl]
  | _ => rw [responseOf, responseOf, hf _ rfl]

/-- No instruction writes the format table: all it does is deliver its response. -/
theorem exec_romFmt {i : Instr} {s t : State} (h : exec i s = .next t) : t.romFmt = s.romFmt := by
  cases (exec_eq_deliver i s).symm.trans h
  exact State.deliver_romFmt ..

/-- Settles O12: a table with the same selected entry gives the same response. -/
theorem readsSelectedEntryOnly : Obligations.ReadsSelectedEntryOnly := by
  refine ⟨fun i s t h => exec_romFmt h, fun i s rom hrom => ⟨exec_eq_deliver i s, ?_⟩⟩
  have hresp : responseOf { s with romFmt := rom } i = responseOf s i := responseOf_congr_of_format rfl rfl hrom
  rw [exec_eq_deliver, hresp]

end Sys2Proof.Machine

/-! PROOFS. The statements of 43_rescale_round.md: round-half-even (R92) and its digit-serial datapath (R93), and the results of
RESCALE (R97), ROUND (R101) and VALIDATE (R103). -/

namespace Sys2Proof.Machine

/-! ### Round-half-even (43_rescale_round.md R92) -/

@[simp] theorem rhe_zero (c : Nat) : rhe c 0 = c := if_pos rfl

theorem two_mul_half_ten_pow {k : Nat} (hk : 0 < k) : 2 * (10 ^ k / 2) = 10 ^ k :=
  Nat.mul_div_cancel' (dvd_pow (by decide : 2 ∣ 10) hk.ne')

/-- A tie goes to the even integer; rounding is down from a remainder of at most half a unit, or up from one of at least half. -/
theorem rhe_down_or_up (c : Nat) {k : Nat} (hk : 0 < k) :
    (2 * (c % 10 ^ k) = 10 ^ k → rhe c k % 2 = 0) ∧
      ((rhe c k = c / 10 ^ k ∧ 2 * (c % 10 ^ k) ≤ 10 ^ k) ∨
        (rhe c k = c / 10 ^ k + 1 ∧ 10 ^ k ≤ 2 * (c % 10 ^ k))) := by
  have hhalf := two_mul_half_ten_pow hk
  rw [rhe_eq c k hk, roundHalfEven]
  split
  · exact ⟨by omega, .inr ⟨rfl, by omega⟩⟩
  · split
    · exact ⟨by omega, .inr ⟨rfl, by omega⟩⟩
    · exact ⟨by omega, .inl ⟨rfl, by omega⟩⟩

/-- The result's distance from `c`, in units of `c`, is the remainder where rounding is down and its complement to `10^k` where
it is up. -/
theorem abs_rhe_mul_sub_le (c : Nat) {k : Nat} (hk : 0 < k) :
    2 * |(rhe c k : Int) * 10 ^ k - c| ≤ 10 ^ k ∧ (2 * |(rhe c k : Int) * 10 ^ k - c| = 10 ^ k → rhe c k % 2 = 0) := by
  have hdiv : (c : Int) = (c / 10 ^ k : Nat) * 10 ^ k + (c % 10 ^ k : Nat) := mod_cast (Nat.div_add_mod' c (10 ^ k)).symm
  have hlt : ((c % 10 ^ k : Nat) : Int) < 10 ^ k := mod_cast Nat.mod_lt c (by positivity)
  obtain ⟨htie, ⟨hq, hr⟩ | ⟨hq, hr⟩⟩ := rhe_down_or_up c hk
  · have habs : |(rhe c k : Int) * 10 ^ k - c| = (c % 10 ^ k : Nat) := by
      rw [hq, abs_sub_comm, abs_of_nonneg] <;> omega
    rw [habs]
    exact ⟨mod_cast hr, fun h => htie (mod_cast h)⟩
  · have habs : |(rhe c k : Int) * 10 ^ k - c| = 10 ^ k - (c % 10 ^ k : Nat) := by
      rw [hq, Nat.cast_add, Nat.cast_one, add_one_mul, abs_of_nonneg] <;> omega
    have hup : (10 : Int) ^ k ≤ 2 * (c % 10 ^ k : Nat) := mod_cast hr
    rw [habs]
    exact ⟨by linarith, fun h => htie (mod_cast (by linarith : 2 * ((c % 10 ^ k : Nat) : Int) = 10 ^ k))⟩

/-- Settles O28: without the short cut of R108 the model's rounding is R92's pseudocode, and its error is the remainder or
the remainder's complement. -/
theorem roundHalfEvenMeaning : Obligations.RoundHalfEvenMeaning :=
  ⟨rhe_zero, fun c k hk => ⟨rhe_eq c k hk, abs_rhe_mul_sub_le c hk⟩⟩

/-! ### The digit-serial datapath (43_rescale_round.md R93) -/

/-- After `k + 1` digits the guard is the last one dropped, and sticky says whether an earlier one, or the guard or flag at the
start, was nonzero. -/
theorem dropDigits_succ (k q guard : Nat) (sticky : Bool) :
    dropDigits (k + 1) (q, guard, sticky) =
      (q / 10 ^ (k + 1), q / 10 ^ k % 10, sticky || decide (guard ≠ 0) || decide (q % 10 ^ k ≠ 0)) := by
  induction k generalizing q guard sticky with
  | zero => simp [dropDigits, Nat.mod_one]
  | succ k ih =>
    have hlow : q % 10 ^ (k + 1) = q % 10 + 10 * (q / 10 % 10 ^ k) := by rw [pow_succ', Nat.mod_mul]
    have hsticky : (q % 10 ^ (k + 1) ≠ 0) = (q % 10 ≠ 0 ∨ q / 10 % 10 ^ k ≠ 0) := by
      rw [hlow]
      exact propext (by omega)
    rw [dropDigits, ih]
    simp only [Nat.div_div_eq_div_mul, ← pow_succ', hsticky, Bool.decide_or, Bool.or_assoc]

/-- A remainder of guard digit `g`, of weight `m`, and digits `t` after it, compared with half a unit, `5 * m`: the guard decides,
and `t` only where the guard is 5. -/
theorem half_compare_guard {m t : Nat} (g : Nat) (ht : t < m) :
    (5 * m < t + m * g ↔ 5 < g ∨ (g = 5 ∧ t ≠ 0)) ∧ (t + m * g = 5 * m ↔ g = 5 ∧ t = 0) := by
  obtain hg | rfl | hg := lt_trichotomy g 5
  · have hlow : m * g ≤ m * 4 := Nat.mul_le_mul_left m (by omega)
    omega
  · omega
  · have hhigh : m * 6 ≤ m * g := Nat.mul_le_mul_left m (by omega)
    omega

theorem rheSerial_eq_rhe (c k : Nat) : rheSerial c k = rhe c k := by
  cases k with
  | zero => simp [rheSerial, dropDigits]
  | succ k =>
    have hrem : c % 10 ^ (k + 1) = c % 10 ^ k + 10 ^ k * (c / 10 ^ k % 10) := by rw [pow_succ, Nat.mod_mul]
    have hhalf : 10 ^ (k + 1) / 2 = 5 * 10 ^ k := by omega
    have ht : c % 10 ^ k < 10 ^ k := Nat.mod_lt c (by positivity)
    rw [rhe_eq c _ k.succ_pos, roundHalfEven, rheSerial, dropDigits_succ]
    obtain ⟨hlt, heq⟩ := half_compare_guard (c / 10 ^ k % 10) ht
    simp only [hrem, hhalf, hlt, heq]
    -- both sides now choose between the same two results by guard, sticky and the quotient's parity
    grind

/-- Settles O29: the guard is the first dropped digit and sticky the rest, which is all R92 asks of the remainder. -/
theorem serialRoundingAgrees : Obligations.SerialRoundingAgrees := ⟨rheSerial_eq_rhe, by decide⟩

/-! ### The constants of a format, and finite results -/

@[simp] theorem descriptorTable_coefficientDigits (f : Fmt) :
    (descriptorTable f).coefficientDigits = f.coefficientDigits := by
  cases f <;> rfl

theorem maxCoefficient_descriptorTable (f : Fmt) :
    (descriptorTable f).maxCoefficient = 10 ^ f.coefficientDigits - 1 := by
  cases f <;> rfl

/-- A finite value as the operand with another coefficient and exponent, the way R97 writes its results. -/
theorem finiteValue_eq_with {v : DecimalValue} (h : v.kind = .finite) (c : Nat) (e : Int) :
    finiteValue v.sign c e = { v with coefficient := c, exponent := e } := by
  rw [finiteValue, ← h]

/-! ### RESCALE (43_rescale_round.md R94 to R97) -/

/-- R95, shared by RESCALE and ROUND: a zero absorbs any decrease, other coefficients only what leaves them `p` digits. -/
theorem lowerExponent_eq (F : Descriptor) (c : Nat) (e : Int) :
    lowerExponent F c e =
      if c = 0 then (0, (F.maxBiasedExponent : Int) - F.exponentBias)
      else if digits c + (e + F.exponentBias - F.maxBiasedExponent).toNat ≤ F.coefficientDigits then
        (c * 10 ^ (e + F.exponentBias - F.maxBiasedExponent).toNat, (F.maxBiasedExponent : Int) - F.exponentBias)
      else (c, e) := by
  unfold lowerExponent appendZeros biased maxExponent
  split_ifs <;> rfl

/-- R94 and R97 without the short cut of R108. -/
theorem rescaleFinite_eq (F : Descriptor) (c : Nat) (e : Int) :
    rescaleFinite F c e =
      if e + F.exponentBias < 0 then
        if c % 10 ^ (-(e + F.exponentBias)).toNat = 0 then
          (c / 10 ^ (-(e + F.exponentBias)).toNat, -(F.exponentBias : Int))
        else (c, e)
      else if F.maxBiasedExponent < e + F.exponentBias then lowerExponent F c e
      else (c, e) := by
  unfold rescaleFinite biased minExponent
  rw [stripZeros_eq]
  split_ifs <;> rfl

theorem rescaleValue_of_finite (F : Descriptor) {v : DecimalValue} (h : v.kind = .finite) :
    rescaleValue F v =
      { v with
        coefficient := (rescaleFinite F v.coefficient v.exponent).1
        exponent := (rescaleFinite F v.coefficient v.exponent).2 } := by
  rw [rescaleValue, if_pos h, finiteValue_eq_with h]

/-- Settles O30: special values are made canonical, and the branches of R97 are those of the model's engine. -/
theorem rescaleResult : Obligations.RescaleResult := by
  intro s f v hs
  dsimp only
  rw [exec_eq_deliver, responseOf_rescale, hs.descriptor_eq, rescaleResponse]
  refine congrArg (fun w => Host.Outcome.next (s.deliver (.value w))) ?_
  by_cases hv : v.kind = .finite
  · rw [rescaleValue_of_finite _ hv, rescaleFinite_eq, lowerExponent_eq, descriptorTable_coefficientDigits, if_neg (not_not.2 hv)]
    split_ifs with hlow hdvd hhigh hzero hfits
    any_goals rfl
    rw [hzero]
  · rw [rescaleValue_of_special hv, if_pos hv, specialValue]

/-! ### ROUND (43_rescale_round.md R98 to R101) -/

/-- R99: only its rounding differs from what RESCALE does. -/
theorem roundExponent_eq (F : Descriptor) (c : Nat) (e : Int) :
    roundExponent F c e =
      if e + F.exponentBias < 0 then (rhe c (-(e + F.exponentBias)).toNat, -(F.exponentBias : Int))
      else if F.maxBiasedExponent < e + F.exponentBias then lowerExponent F c e
      else (c, e) := rfl

theorem roundValue_of_finite (F : Descriptor) {v : DecimalValue} (h : v.kind = .finite) :
    roundValue F v =
      if F.maxBiasedExponent < biased F (roundFinite F v.coefficient v.exponent).2 then
        specialValue v.sign .infinity
      else
        finiteValue v.sign (roundFinite F v.coefficient v.exponent).1 (roundFinite F v.coefficient v.exponent).2 :=
  if_pos h

/-- Settles O32: special values are made canonical; of a finite one the model's steps are R101's, with R95 written out. -/
theorem roundResult : Obligations.RoundResult := by
  intro s f v hs p B L d ce1 be ce2
  rw [exec_eq_deliver, responseOf_round, hs.descriptor_eq, roundResponse]
  refine congrArg (fun w => Host.Outcome.next (s.deliver (.value w))) ?_
  by_cases hv : v.kind = .finite
  · have hce1 : roundPrecision p v.coefficient v.exponent = ce1 := rfl
    have hce2 : roundFinite (descriptorTable f) v.coefficient v.exponent = ce2 := by
      rw [roundFinite, descriptorTable_coefficientDigits, hce1, roundExponent_eq, lowerExponent_eq, descriptorTable_coefficientDigits]
    rw [roundValue_of_finite _ hv, hce2, if_neg (not_not.2 hv)]
    rfl
  · rw [roundValue_of_special hv, if_pos hv, specialValue]

/-! ### VALIDATE (43_rescale_round.md R102, R103) -/

theorem exponentInRange_eq_false_iff {F : Descriptor} {e : Int} :
    exponentInRange F e = false ↔ e + F.exponentBias < 0 ∨ F.maxBiasedExponent < e + F.exponentBias := by
  rw [exponentInRange, decide_eq_false_iff_not, biased]
  omega

theorem magnitudeInRange_eq_false_iff {F : Descriptor} {c : Nat} :
    magnitudeInRange F c = false ↔ F.maxCoefficient < c := by
  rw [magnitudeInRange, decide_eq_false_iff_not, not_le]

/-- The exponent is tested first (R103). -/
theorem overflowOf_eq (F : Descriptor) (c : Nat) (e : Int) :
    overflowOf F c e =
      if e + F.exponentBias < 0 ∨ F.maxBiasedExponent < e + F.exponentBias then some (.exp e)
      else if F.maxCoefficient < c then some (.coef c)
      else none := by
  simp only [overflowOf, exponentInRange_eq_false_iff, magnitudeInRange_eq_false_iff]

theorem validateResponse_of_some {F : Descriptor} {v : DecimalValue} {o : Overflow} (hv : v.kind = .finite)
    (h : overflowOf F v.coefficient v.exponent = some o) : validateResponse F v = .fault (.overflowError o) := by
  rw [validateResponse, if_pos hv, h]
  rfl

theorem validateResponse_of_none {F : Descriptor} {v : DecimalValue} (hv : v.kind = .finite)
    (h : overflowOf F v.coefficient v.exponent = none) : validateResponse F v = .pass := by
  rw [validateResponse, if_pos hv, h]

/-- Settles O37: VALIDATE reports the first test that fails, the exponent's before the coefficient's. -/
theorem validateResult : Obligations.ValidateResult := by
  intro s f v hs be
  rw [exec_eq_deliver, responseOf_validate, hs.descriptor_eq, ← maxCoefficient_descriptorTable]
  refine ⟨fun hv => by rw [validateResponse_of_special hv], fun hv => ⟨fun hout => ?_, fun hin => ?_⟩⟩
  · rw [validateResponse_of_some hv ((overflowOf_eq ..).trans (if_pos hout))]
  · have hexp : ¬(be < 0 ∨ ((descriptorTable f).maxBiasedExponent : Int) < be) := by omega
    have hof := (overflowOf_eq (descriptorTable f) v.coefficient v.exponent).trans (if_neg hexp)
    refine ⟨fun hcoef => ?_, fun hcoef => ?_⟩
    · rw [validateResponse_of_some hv (hof.trans (if_pos hcoef))]
    · rw [validateResponse_of_none hv (hof.trans (if_neg hcoef.not_gt))]

end Sys2Proof.Machine

/-! PROOFS. The statements of 44_binary_codec.md: DECODE's length test (R110), special words (R112), finite words (R113) and the
validity of what it gives (R121); ENCODE's special words (R118) and its faults (R120). -/

namespace Sys2Proof.Machine

/-! ### Numerals read digit by digit: the bytes of a word, the groups of a coefficient -/

/-- Numerals of radix `m` that begin with `a` and have the same number of digits after it lie below those that begin with
`a + 1`. -/
theorem foldl_radix_bounds {α : Type*} {m : Nat} {d : α → Nat} (hd : ∀ x, d x < m) (l : List α) (a : Nat) :
    a * m ^ l.length ≤ l.foldl (fun w x => w * m + d x) a ∧
      l.foldl (fun w x => w * m + d x) a < (a + 1) * m ^ l.length := by
  induction l generalizing a with
  | nil => simp
  | cons x l ih =>
    obtain ⟨hlow, hhigh⟩ := ih (a * m + d x)
    have hx : a * m + d x + 1 ≤ (a + 1) * m := by have := hd x; rw [add_one_mul]; omega
    rw [List.foldl_cons, List.length_cons, pow_succ', ← mul_assoc, ← mul_assoc]
    exact ⟨(Nat.mul_le_mul_right _ (Nat.le_add_right ..)).trans hlow, hhigh.trans_le (Nat.mul_le_mul_right _ hx)⟩

/-- The numeral as the sum of its digits by weight. -/
theorem foldl_range_radix (m : Nat) (d : Nat → Nat) (a n : Nat) :
    (List.range n).foldl (fun c j => c * m + d j) a = a * m ^ n + ∑ j ∈ Finset.range n, d j * m ^ (n - 1 - j) := by
  induction n with
  | zero => simp
  | succ n ih =>
    have hshift : ∑ j ∈ Finset.range n, d j * m ^ (n - j) = (∑ j ∈ Finset.range n, d j * m ^ (n - 1 - j)) * m := by
      rw [Finset.sum_mul]
      refine Finset.sum_congr rfl fun j hj => ?_
      have hj := Finset.mem_range.1 hj
      rw [mul_assoc, ← pow_succ]
      congr 2
      omega
    rw [List.range_succ, List.foldl_append, ih, Finset.sum_range_succ, Nat.add_sub_cancel, hshift]
    simp only [List.foldl_cons, List.foldl_nil, Nat.sub_self, pow_zero, mul_one]
    ring

/-- Byte 0 is the word's most significant (20_memory.md R33). -/
theorem wordOf_div_eq_firstByte {n : Nat} (h0 : 0 < n) (hn : n ≤ 16) (bs : ByteString) :
    wordOf n bs / 2 ^ (8 * (n - 1)) = bs.data[0].toNat := by
  obtain ⟨m, rfl⟩ : ∃ m, n = m + 1 := ⟨n - 1, by omega⟩
  obtain ⟨b, l, hbl⟩ := List.exists_cons_of_length_eq_add_one (Vector.length_toList (xs := bs.data))
  have hfirst : bs.data[0] = b := by simp [← Vector.getElem_toList, hbl]
  have hl : l.length = 15 := by simpa using (congrArg List.length hbl).symm
  have hlen : (l.take m).length = m := by rw [List.length_take]; omega
  obtain ⟨hlow, hhigh⟩ := foldl_radix_bounds (fun x : Byte => x.isLt) (l.take m) (0 * 256 + b.toNat)
  rw [zero_mul, zero_add, hlen] at hlow hhigh
  rw [wordOf, hbl, List.take_succ_cons, List.foldl_cons, hfirst, pow_mul]
  exact Nat.div_eq_of_lt_le (by simpa using hlow) (by simpa using hhigh)

/-! ### The constants of R85 as the codec uses them -/

section Constants
variable (f : Fmt)

@[simp] theorem descriptorTable_totalBits : (descriptorTable f).totalBits = f.totalBits := by cases f <;> rfl

@[simp] theorem groupCount_descriptorTable : groupCount (descriptorTable f) = groupTable f := by cases f <;> rfl

theorem coefficientDigits_eq : f.coefficientDigits = 3 * groupTable f + 1 := by cases f <;> rfl

theorem descriptorTable_coefficientContinuationBits :
    (descriptorTable f).coefficientContinuationBits = 10 * groupTable f := by cases f <;> rfl

theorem totalBits_eq : f.totalBits =
    6 + (descriptorTable f).exponentContinuationBits + (descriptorTable f).coefficientContinuationBits := by
  cases f <;> rfl

theorem totalBits_eq_bytes : f.totalBits = 8 * (f.totalBits / 8) := by cases f <;> rfl

theorem byteLength_bounds : 0 < f.totalBits / 8 ∧ f.totalBits / 8 ≤ 16 := by cases f <;> decide

theorem descriptorTable_maxBiasedExponent :
    (descriptorTable f).maxBiasedExponent + 1 = 3 * 2 ^ (descriptorTable f).exponentContinuationBits := by
  cases f <;> rfl

end Constants

/-! ### The fields of a word (30_encoding.md R50) -/

theorem signOfBit_ofNat (n : Nat) : Sign.ofBit (BitVec.ofNat 1 n) = if n % 2 = 1 then .negative else .positive := by
  obtain h | h := Nat.mod_two_eq_zero_or_one n <;> simp [Sign.ofBit, ← BitVec.toNat_inj, h]

section WordFields
variable (f : Fmt) (W : Nat)

theorem wordSign_eq : wordSign (descriptorTable f) W =
    if W / 2 ^ (f.totalBits - 1) % 2 = 1 then .negative else .positive := by
  have hslice : slice W (f.totalBits - 1) (f.totalBits - 1) = W / 2 ^ (f.totalBits - 1) % 2 := by cases f <;> rfl
  rw [wordSign, descriptorTable_totalBits, hslice, signOfBit_ofNat, Nat.mod_mod]

theorem wordCombination_toNat :
    (wordCombination (descriptorTable f) W).toNat = W / 2 ^ (f.totalBits - 6) % 32 := by
  cases f <;> simp [wordCombination, slice, Fmt.totalBits]

theorem wordBit6_eq : wordBit6 (descriptorTable f) W = W / 2 ^ (f.totalBits - 7) % 2 := by
  cases f <;> rfl

theorem wordExponent_eq : wordExponent (descriptorTable f) W =
    W / 2 ^ (descriptorTable f).coefficientContinuationBits % 2 ^ (descriptorTable f).exponentContinuationBits := by
  cases f <;> rfl

theorem wordCoefficient_eq : wordCoefficient (descriptorTable f) W = W % 2 ^ (10 * groupTable f) := by
  cases f <;> simp [wordCoefficient, slice, descriptorTable, groupTable]

end WordFields

/-! ### The first byte of a word of a format: sign, combination field and stream bit 6 (30_encoding.md R53) -/

section FirstByte
variable (f : Fmt) (bs : ByteString)

theorem wordOf_div_eq_byte_div {k : Nat} (hk : k ≤ 8) :
    wordOf (f.totalBits / 8) bs / 2 ^ (f.totalBits - k) = bs.data[0].toNat / 2 ^ (8 - k) := by
  have hbytes := totalBits_eq_bytes f
  obtain ⟨hpos, hle⟩ := byteLength_bounds f
  have hexp : f.totalBits - k = 8 * (f.totalBits / 8 - 1) + (8 - k) := by omega
  rw [hexp, pow_add, ← Nat.div_div_eq_div_mul, wordOf_div_eq_firstByte hpos hle]

theorem wordSign_wordOf : wordSign (descriptorTable f) (wordOf (f.totalBits / 8) bs) =
    if bs.data[0].getLsbD 7 then .negative else .positive := by
  rw [wordSign_eq, wordOf_div_eq_byte_div f bs (by decide)]
  simp [BitVec.getLsbD, Nat.testBit_eq_decide_div_mod_eq]

theorem wordCombination_wordOf :
    wordCombination (descriptorTable f) (wordOf (f.totalBits / 8) bs) = bs.data[0].extractLsb' 2 5 := by
  apply BitVec.eq_of_toNat_eq
  rw [wordCombination_toNat, wordOf_div_eq_byte_div f bs (by decide), BitVec.extractLsb'_toNat, Nat.shiftRight_eq_div_pow]

theorem wordBit6_wordOf :
    wordBit6 (descriptorTable f) (wordOf (f.totalBits / 8) bs) = bs.data[0].toNat / 2 % 2 := by
  rw [wordBit6_eq, wordOf_div_eq_byte_div f bs (by decide), Nat.pow_one]

end FirstByte

/-! ### The kinds of word (44_binary_codec.md R112, R113) -/

theorem byte_infinity_iff {b : Byte} : b &&& 0x7C = 0x78 ↔ b.extractLsb' 2 5 = 0b11110 := by
  decide +revert

theorem byte_nan_iff {b : Byte} : b &&& 0x7E = 0x7C ↔ b.extractLsb' 2 5 = 0b11111 ∧ b.toNat / 2 % 2 = 0 := by
  decide +revert

theorem byte_signalingNan_iff {b : Byte} :
    b &&& 0x7E = 0x7E ↔ b.extractLsb' 2 5 = 0b11111 ∧ b.toNat / 2 % 2 ≠ 0 := by
  decide +revert

theorem byte_special_iff {b : Byte} : b &&& 0x78 = 0x78 ↔ 30 ≤ (b.extractLsb' 2 5).toNat := by
  decide +revert

theorem combination_lt_iff {G : BitVec 5} : G.toNat < 30 ↔ G ≠ 0b11110 ∧ G ≠ 0b11111 := by
  decide +revert

section DecodeWord
variable {F : Descriptor} (rom : Vector Triplet 1024) {W : Nat}

theorem decodeWord_of_infinity (h : wordCombination F W = 0b11110) :
    decodeWord F rom W = specialValue (wordSign F W) .infinity :=
  if_pos h

theorem decodeWord_of_nan (h : wordCombination F W = 0b11111) (h6 : wordBit6 F W = 0) :
    decodeWord F rom W = specialValue (wordSign F W) .nan := by
  rw [decodeWord, h, if_neg (by decide), if_pos rfl, if_pos h6]

theorem decodeWord_of_signalingNan (h : wordCombination F W = 0b11111) (h6 : wordBit6 F W ≠ 0) :
    decodeWord F rom W = specialValue (wordSign F W) .signalingNan := by
  rw [decodeWord, h, if_neg (by decide), if_pos rfl, if_neg h6]

theorem decodeWord_of_lt (h : (wordCombination F W).toNat < 30) : decodeWord F rom W = decodeFinite F rom W := by
  obtain ⟨hinf, hnan⟩ := combination_lt_iff.1 h
  rw [decodeWord, if_neg hinf, if_neg hnan]

/-- A finite value comes of a word that is not special. -/
theorem combination_lt_of_finite (h : (decodeWord F rom W).kind = .finite) : (wordCombination F W).toNat < 30 := by
  unfold decodeWord at h
  split_ifs at h with hinf hnan
  · cases h
  · cases h
  · cases h
  · exact combination_lt_iff.2 ⟨hinf, hnan⟩

end DecodeWord

/-! ### DECODE (44_binary_codec.md R110 to R116) -/

@[simp] theorem responseOf_decode (s : State) (f : Fmt) (bs : ByteString) :
    responseOf s (.decode f bs) = decodeResponse (s.descriptor f) s.romDpd bs := by cases f <;> rfl

theorem decodeResponse_of_eq {F : Descriptor} {bs : ByteString} (rom : Vector Triplet 1024)
    (h : bs.len.toNat = F.byteLength) : decodeResponse F rom bs = .value (decodeWord F rom (wordOf F.byteLength bs)) := by
  simp [decodeResponse, lengthFault, h]

theorem decodeResponse_of_ne {F : Descriptor} {bs : ByteString} (rom : Vector Triplet 1024)
    (h : bs.len.toNat ≠ F.byteLength) :
    decodeResponse F rom bs = .fault (.lengthError bs.len.toNat F.byteLength) := by
  simp [decodeResponse, lengthFault, raise, h]

/-- Settles O39: the length is tested before the word is formed. -/
theorem decodeLength : Obligations.DecodeLength := by
  intro s f bs hs hlen
  rw [← descriptorTable_byteLength] at hlen ⊢
  rw [exec_eq_deliver, responseOf_decode, hs.descriptor_eq, decodeResponse_of_ne _ hlen]

theorem exec_decode {s : State} (hs : s.TablesReady) {f : Fmt} {bs : ByteString} (hlen : bs.len.toNat = f.totalBits / 8) :
    exec (.decode f bs) s =
      .next (s.deliver (.value (decodeWord (descriptorTable f) romDpdContents (wordOf (f.totalBits / 8) bs)))) := by
  rw [← descriptorTable_byteLength] at hlen ⊢
  rw [exec_eq_deliver, responseOf_decode, hs.descriptor_eq, hs.dpd, decodeResponse_of_eq _ hlen]

/-- Settles O40: the masks of the first byte are tests of the combination field and of stream bit 6. -/
theorem decodeSpecial : Obligations.DecodeSpecial := by
  intro s f bs hs hlen sign
  have hsign : wordSign (descriptorTable f) (wordOf (f.totalBits / 8) bs) = sign := wordSign_wordOf f bs
  rw [exec_decode hs hlen, byte_infinity_iff, byte_nan_iff, byte_signalingNan_iff, ← wordCombination_wordOf f,
    ← wordBit6_wordOf f, ← hsign]
  refine ⟨fun h => ?_, fun ⟨h, h6⟩ => ?_, fun ⟨h, h6⟩ => ?_⟩
  · rw [decodeWord_of_infinity _ h, specialValue]
  · rw [decodeWord_of_nan _ h h6, specialValue]
  · rw [decodeWord_of_signalingNan _ h h6, specialValue]

/-- The two sub-layouts of a finite combination field by arithmetic on its number (30_encoding.md R52). -/
theorem splitCombination_eq (G : BitVec 5) : splitCombination G =
    (if G.toNat / 8 = 3 then G.toNat / 2 % 4 else G.toNat / 8,
      if G.toNat / 8 = 3 then 8 + G.toNat % 2 else G.toNat % 8) := by
  decide +revert

/-- The groups of the coefficient continuation are those of the word's end (30_encoding.md R55). -/
theorem groupAt_mod_two_pow {n j : Nat} (hj : j < n) (W : Nat) : groupAt n (W % 2 ^ (10 * n)) j = groupOfWord n W j := by
  obtain ⟨k, rfl⟩ : ∃ k, n = k + 1 + j := ⟨n - 1 - j, by omega⟩
  have hsize : 10 * (k + 1 + j) = 10 * k + (10 + 10 * j) := by ring
  have hwidth : 10 * (k + 1) - 1 + 1 - 10 * k = 10 := by omega
  have hlow : k + 1 + j - 1 - j = k := by omega
  apply BitVec.eq_of_toNat_eq
  rw [groupAt, groupOfWord, slice, hsize, Nat.add_sub_cancel, Nat.add_sub_cancel, hwidth, hlow, pow_add,
    Nat.mod_mul_right_div_self, BitVec.toNat_ofNat, BitVec.toNat_ofNat, Nat.mod_mod,
    Nat.mod_mod_of_dvd _ (pow_dvd_pow 2 (Nat.le_add_right ..))]

/-- `CoefDec` of a word's coefficient continuation as a sum: the most significant digit and the triplets by weight
(40_dpd_codec.md R73). -/
theorem coefDec_eq (f : Fmt) (msd W : Nat) :
    coefDec (descriptorTable f) romDpdContents msd (wordCoefficient (descriptorTable f) W) =
      msd * 10 ^ (f.coefficientDigits - 1) +
        ∑ j ∈ Finset.range (groupTable f),
          tripletValue (dpdDec (groupOfWord (groupTable f) W j)) * 10 ^ (3 * (groupTable f - 1 - j)) := by
  have hthousand (n : Nat) : 10 ^ (3 * n) = 1000 ^ n := pow_mul 10 3 n
  rw [coefDec, foldl_range_radix, groupCount_descriptorTable, coefficientDigits_eq, Nat.add_sub_cancel, hthousand]
  refine congrArg _ (Finset.sum_congr rfl fun j hj => ?_)
  rw [wordCoefficient_eq, romRead_contents, groupAt_mod_two_pow (Finset.mem_range.1 hj), hthousand]

/-- Settles O41: a word that is not special decodes from its fields, the combination field split by its sub-layout and the
coefficient's chain of groups written as a sum. -/
theorem decodeFiniteResult : Obligations.DecodeFinite := by
  intro s f bs hs hlen hb
  dsimp only
  rw [exec_decode hs hlen]
  have hG : (wordCombination (descriptorTable f) (wordOf (f.totalBits / 8) bs)).toNat < 30 := by
    rw [wordCombination_wordOf]
    exact not_le.1 (byte_special_iff.not.1 hb)
  have hsign : wordOf (f.totalBits / 8) bs / 2 ^ (f.totalBits - 1) < 2 := by
    have := bs.data[0].isLt
    rw [wordOf_div_eq_byte_div f bs (by decide)]
    omega
  rw [decodeWord_of_lt _ hG, decodeFinite, finiteValue, wordSign_eq, splitCombination_eq, wordCombination_toNat,
    coefDec_eq, wordExponent_eq, Nat.mod_eq_of_lt hsign, descriptorTable_totalBits, descriptorTable_coefficientDigits]

/-! ### What the range tests say of a valid value (43_rescale_round.md R102) -/

theorem validFor_iff {F : Descriptor} {c : Nat} {e : Int} :
    validFor F c e = true ↔ exponentInRange F e = true ∧ magnitudeInRange F c = true :=
  Bool.and_eq_true_iff

theorem overflowOf_of_valid {F : Descriptor} {c : Nat} {e : Int} (h : validFor F c e = true) : overflowOf F c e = none := by
  obtain ⟨he, hc⟩ := validFor_iff.1 h
  rw [overflowOf, he, hc]
  rfl

theorem digits_le_of_lt_pow {c p : Nat} (hp : 0 < p) (h : c < 10 ^ p) : digits c ≤ p := by
  obtain rfl | hc := Nat.eq_zero_or_pos c
  · rwa [digits_zero]
  · have := (Nat.pow_lt_pow_iff_right (by decide)).1 ((digits_bounds hc).2.1.trans_lt h)
    omega

section Valid
variable {f : Fmt} {v : DecimalValue} (h : ValidValue (descriptorTable f) v)
include h

theorem digits_le_of_valid : digits v.coefficient ≤ f.coefficientDigits := by
  have hc := of_decide_eq_true (validFor_iff.1 h.2).2
  have hpow : 0 < 10 ^ f.coefficientDigits := by positivity
  rw [maxCoefficient_descriptorTable] at hc
  exact digits_le_of_lt_pow (coefficientDigits_eq f ▸ Nat.succ_pos _) (by omega)

theorem rescaleValue_of_valid : rescaleValue (descriptorTable f) v = v := by
  obtain ⟨hlow, hhigh⟩ := of_decide_eq_true (validFor_iff.1 h.2).1
  have hce : rescaleFinite (descriptorTable f) v.coefficient v.exponent = (v.coefficient, v.exponent) := by
    rw [rescaleFinite, if_neg hlow.not_gt, if_neg hhigh.not_gt]
  rw [rescaleValue_of_finite _ h.1, hce]

theorem roundValue_of_valid : roundValue (descriptorTable f) v = v := by
  obtain ⟨hlow, hhigh⟩ := of_decide_eq_true (validFor_iff.1 h.2).1
  have hprec : roundPrecision f.coefficientDigits v.coefficient v.exponent = (v.coefficient, v.exponent) :=
    if_neg (digits_le_of_valid h).not_gt
  have hce : roundFinite (descriptorTable f) v.coefficient v.exponent = (v.coefficient, v.exponent) := by
    rw [roundFinite, descriptorTable_coefficientDigits, hprec, roundExponent, if_neg hlow.not_gt, if_neg hhigh.not_gt]
  rw [roundValue_of_finite _ h.1, hce, if_neg hhigh.not_gt, finiteValue_eq_with h.1]

theorem validateResponse_of_valid : validateResponse (descriptorTable f) v = .pass :=
  validateResponse_of_none h.1 (overflowOf_of_valid h.2)

theorem encodeResponse_of_valid : encodeResponse (descriptorTable f) v =
    .bytes (bytesOf (descriptorTable f).byteLength (encodeFinite (descriptorTable f) v.sign v.coefficient v.exponent)) := by
  rw [encodeResponse, if_pos h.1, overflowOf_of_valid h.2]

end Valid

/-- A canonical value that is valid where it is finite passes every operation unchanged (44_binary_codec.md R121). -/
theorem canonical_valid_kept {f : Fmt} {v : DecimalValue} (hcanon : Canonical v)
    (hvalid : v.kind = .finite → ValidValue (descriptorTable f) v) :
    validateResponse (descriptorTable f) v = .pass ∧ rescaleValue (descriptorTable f) v = v ∧
      roundValue (descriptorTable f) v = v ∧ ∃ bs, encodeResponse (descriptorTable f) v = .bytes bs := by
  by_cases hv : v.kind = .finite
  · have h := hvalid hv
    exact ⟨validateResponse_of_valid h, rescaleValue_of_valid h, roundValue_of_valid h, _, encodeResponse_of_valid h⟩
  · have hspecial := (hcanon.eq_specialValue hv).symm
    exact ⟨validateResponse_of_special hv _, (rescaleValue_of_special hv _).trans hspecial,
      (roundValue_of_special hv _).trans hspecial, _, encodeResponse_of_special hv _⟩

/-! ### The values DECODE gives are valid (44_binary_codec.md R121) -/

/-- Outside the special fields the exponent's top bits are at most 2 and the most significant digit is at most 9. -/
theorem splitCombination_le {G : BitVec 5} (h : G.toNat < 30) :
    (splitCombination G).1 ≤ 2 ∧ (splitCombination G).2 ≤ 9 := by
  rw [splitCombination_eq]
  dsimp only
  split <;> omega

theorem tripletValue_dpdDec_lt (code : Group) : tripletValue (dpdDec code) < 1000 := by
  obtain ⟨h0, h1, h2⟩ := dpdDec_le_nine code
  rw [tripletValue]
  omega

theorem coefDec_lt {msd : Nat} (f : Fmt) (hmsd : msd ≤ 9) (cc : Nat) :
    coefDec (descriptorTable f) romDpdContents msd cc < 10 ^ f.coefficientDigits := by
  have hdigit (j : Nat) : tripletValue (romRead romDpdContents (groupAt (groupTable f) cc j)) < 1000 := by
    rw [romRead_contents]
    exact tripletValue_dpdDec_lt _
  have hfold := (foldl_radix_bounds hdigit (List.range (groupTable f)) msd).2
  rw [List.length_range] at hfold
  rw [coefDec, groupCount_descriptorTable]
  calc _ < (msd + 1) * 1000 ^ groupTable f := hfold
    _ ≤ 10 * 1000 ^ groupTable f := Nat.mul_le_mul_right _ (by omega)
    _ = 10 ^ f.coefficientDigits := by rw [coefficientDigits_eq, pow_succ', pow_mul]; rfl

theorem wordExponent_lt (f : Fmt) (W : Nat) :
    wordExponent (descriptorTable f) W < 2 ^ (descriptorTable f).exponentContinuationBits := by
  rw [wordExponent_eq]
  exact Nat.mod_lt _ (by positivity)

theorem validValue_decodeFinite {f : Fmt} {W : Nat} (h : (wordCombination (descriptorTable f) W).toNat < 30) :
    ValidValue (descriptorTable f) (decodeFinite (descriptorTable f) romDpdContents W) := by
  obtain ⟨hem, hmsd⟩ := splitCombination_le h
  refine ⟨rfl, validFor_iff.2 ⟨decide_eq_true ?_, decide_eq_true ?_⟩⟩
  · have hx := wordExponent_lt f W
    have hmax := descriptorTable_maxBiasedExponent f
    have hmul := Nat.mul_le_mul_right (2 ^ (descriptorTable f).exponentContinuationBits) hem
    simp only [decodeFinite, finiteValue, biased, sub_add_cancel]
    omega
  · have hc := coefDec_lt f hmsd (wordCoefficient (descriptorTable f) W)
    rw [maxCoefficient_descriptorTable]
    exact Nat.le_sub_one_of_lt hc

theorem validValue_decodeWord {f : Fmt} {W : Nat}
    (h : (decodeWord (descriptorTable f) romDpdContents W).kind = .finite) :
    ValidValue (descriptorTable f) (decodeWord (descriptorTable f) romDpdContents W) := by
  have hlt := combination_lt_of_finite _ h
  rw [decodeWord_of_lt _ hlt]
  exact validValue_decodeFinite hlt

/-- Settles O42: what DECODE gives is canonical, and valid where it is finite. -/
theorem decodedValuesValid : Obligations.DecodedValuesValid := by
  intro f bs hlen
  obtain ⟨hval, hrescale, hround, bs', henc⟩ :=
    canonical_valid_kept (canonical_decodeWord (descriptorTable f) romDpdContents (wordOf (f.totalBits / 8) bs))
      validValue_decodeWord
  refine ⟨_, bs', validValue_decodeWord, fun s hs => ⟨exec_decode hs hlen, ?_, ?_, ?_, ?_⟩⟩
  · rw [exec_eq_deliver, responseOf_validate, hs.descriptor_eq, hval]
  · rw [exec_eq_deliver, responseOf_rescale, hs.descriptor_eq, rescaleResponse, hrescale]
  · rw [exec_eq_deliver, responseOf_round, hs.descriptor_eq, roundResponse, hround]
  · rw [exec_eq_deliver, responseOf_encode, hs.descriptor_eq, henc]

/-! ### ENCODE's faults and special words (44_binary_codec.md R118 to R120) -/

theorem encodeResponse_of_some {F : Descriptor} {v : DecimalValue} {o : Overflow} (hv : v.kind = .finite)
    (h : overflowOf F v.coefficient v.exponent = some o) : encodeResponse F v = .fault (.overflowError o) := by
  rw [encodeResponse, if_pos hv, h]
  rfl

/-- Settles O43: ENCODE asks `overflowOf`, as VALIDATE does, and it tests the exponent first. -/
theorem encodeValidates : Obligations.EncodeValidates := by
  intro s f v hs hv be
  rw [exec_eq_deliver, responseOf_encode, hs.descriptor_eq, ← maxCoefficient_descriptorTable]
  refine ⟨fun hout => ?_, fun hin hcoef => ?_⟩
  · rw [encodeResponse_of_some hv ((overflowOf_eq ..).trans (if_pos hout))]
  · have hexp : ¬(be < 0 ∨ ((descriptorTable f).maxBiasedExponent : Int) < be) := by omega
    rw [encodeResponse_of_some hv (((overflowOf_eq ..).trans (if_neg hexp)).trans (if_pos hcoef))]

theorem bytesOf_data (n W : Nat) {i : Nat} (hi : i < 16) :
    (bytesOf n W).data[i] = if i < n then BitVec.ofNat 8 (W / 2 ^ (8 * (n - 1 - i))) else 0 := by
  interval_cases i <;> rfl

/-- Sign and tag are the first seven bits of the word, so the first byte is theirs and a zero bit's (R118). -/
theorem encodeSpecial_eq (f : Fmt) (s : Sign) (k : Kind) : encodeSpecial (descriptorTable f) s k =
    (s.code.toNat * 2 ^ 6 + specialTag k) * 2 * 2 ^ (8 * (f.totalBits / 8 - 1)) := by
  have hexp : f.totalBits - 7 = 1 + 8 * (f.totalBits / 8 - 1) := by cases f <;> rfl
  rw [encodeSpecial, descriptorTable_totalBits, hexp, pow_add, pow_one, mul_assoc]

theorem encodeSpecial_firstByte (f : Fmt) (s : Sign) (k : Kind) :
    (bytesOf (f.totalBits / 8) (encodeSpecial (descriptorTable f) s k)).data[0] =
      BitVec.ofNat 8 ((s.code.toNat * 2 ^ 6 + specialTag k) * 2) := by
  rw [bytesOf_data _ _ (by decide), if_pos (byteLength_bounds f).1, Nat.sub_zero, encodeSpecial_eq,
    Nat.mul_div_cancel _ (by positivity)]

theorem encodeSpecial_laterBytes (f : Fmt) (s : Sign) (k : Kind) {i : Nat} (hi : i < 16) (h0 : 0 < i) :
    (bytesOf (f.totalBits / 8) (encodeSpecial (descriptorTable f) s k)).data[i] = 0 := by
  rw [bytesOf_data _ _ hi]
  split
  case isFalse => rfl
  case isTrue hlen =>
    have hexp : 8 * (f.totalBits / 8 - 1) = 8 + 8 * (i - 1) + 8 * (f.totalBits / 8 - 1 - i) := by omega
    apply BitVec.eq_of_toNat_eq
    rw [encodeSpecial_eq, hexp, pow_add, ← mul_assoc, Nat.mul_div_cancel _ (by positivity), pow_add, BitVec.toNat_ofNat,
      mul_left_comm]
    exact Nat.mul_mod_right ..

/-- Settles O44: by the word of sign and tag, read byte by byte. -/
theorem encodeSpecialResult : Obligations.EncodeSpecialResult := by
  intro f v hv
  refine ⟨bytesOf (f.totalBits / 8) (encodeSpecial (descriptorTable f) v.sign v.kind), fun s hs => ?_, ?_, ?_,
    fun i hi h0 => encodeSpecial_laterBytes f v.sign v.kind hi h0⟩
  · rw [exec_eq_deliver, responseOf_encode, hs.descriptor_eq, encodeResponse_of_special hv, descriptorTable_byteLength]
  · cases f <;> rfl
  · rw [encodeSpecial_firstByte]
    cases hk : v.kind with
    | finite => exact absurd hk hv
    | infinity | nan | signalingNan => cases v.sign <;> rfl

end Sys2Proof.Machine

/-! PROOFS. The statements of 45_value_ops.md: FROMAPD (R126), TOAPD (R127) and NEG (R128), and what NEG commutes with (R129). -/

namespace Sys2Proof.Machine

/-! ### FROMAPD and TOAPD (45_value_ops.md R126, R127) -/

@[simp] theorem responseOf_fromapd (s : State) (a : Apd) :
    responseOf s (.fromapd a) = fromapdResponse s.params a := rfl

theorem fromapdResponse_of_ne {P : Params} {a : Apd} (h : a.u ≠ -2 ^ P.coefw) :
    fromapdResponse P a = .value (finiteValue (if a.u < 0 then .negative else .positive) a.u.natAbs a.x) :=
  if_neg (mt of_decide_eq_true h)

theorem fromapdResponse_of_eq {P : Params} {a : Apd} (h : a.u = -2 ^ P.coefw) :
    fromapdResponse P a = .fault (.illegalOperand .apdMagnitude) :=
  if_pos (decide_eq_true h)

/-- Settles O49: the one test FROMAPD makes is whether the operand is `-2^COEFW`. -/
theorem fromapdResult : Obligations.FromapdResult := by
  refine fun s a => ⟨fun h => ?_, fun h => ?_⟩
  · rw [exec_eq_deliver, responseOf_fromapd, fromapdResponse_of_ne h, finiteValue]
  · rw [exec_eq_deliver, responseOf_fromapd, fromapdResponse_of_eq h]

theorem signedCoefficient_eq (v : DecimalValue) :
    signedCoefficient v = if v.sign = .negative then -(v.coefficient : Int) else v.coefficient := by
  unfold signedCoefficient
  cases v.sign <;> rfl

theorem toapdResponse_of_finite {v : DecimalValue} (h : v.kind = .finite) :
    toapdResponse v = .apd { u := signedCoefficient v, x := v.exponent } := if_pos h

@[simp] theorem natAbs_signedCoefficient (v : DecimalValue) : (signedCoefficient v).natAbs = v.coefficient := by
  rw [signedCoefficient_eq]
  split <;> simp

theorem signedCoefficient_neg_iff {v : DecimalValue} :
    signedCoefficient v < 0 ↔ v.sign = .negative ∧ v.coefficient ≠ 0 := by
  by_cases hsign : v.sign = .negative <;> simp [signedCoefficient_eq, hsign, Nat.pos_iff_ne_zero]

/-- The sign of the integer is that of the value, but a zero has lost it. -/
theorem fromapdResponse_signedCoefficient {P : Params} {v : DecimalValue} (hv : v.kind = .finite)
    (hc : v.coefficient < 2 ^ P.coefw) :
    fromapdResponse P { u := signedCoefficient v, x := v.exponent } =
      .value (if v.coefficient = 0 then { v with sign := .positive } else v) := by
  have hu : signedCoefficient v ≠ -2 ^ P.coefw := by
    intro h
    have habs : v.coefficient = 2 ^ P.coefw := by rw [← natAbs_signedCoefficient, h, Int.natAbs_neg, Int.natAbs_pow]; rfl
    exact hc.ne habs
  rw [fromapdResponse_of_ne hu]
  obtain ⟨sign, kind, c, e⟩ := v
  obtain rfl : kind = .finite := hv
  by_cases h0 : c = 0
  · simp [finiteValue, signedCoefficient_neg_iff, h0]
  · cases sign <;> simp [finiteValue, signedCoefficient_neg_iff, h0]

/-- Settles O50: the signed coefficient is the number's, and FROMAPD splits it again. -/
theorem toapdResult : Obligations.ToapdResult := by
  refine fun v => ⟨fun hv => ⟨{ u := signedCoefficient v, x := v.exponent }, fun s => ?_, rfl, signedCoefficient_eq v, rfl,
    fun s hc => ?_⟩, fun hv s => ?_⟩
  · rw [exec_eq_deliver, responseOf_toapd, toapdResponse_of_finite hv]
  · rw [exec_eq_deliver, responseOf_fromapd, fromapdResponse_signedCoefficient hv hc]
  · rw [exec_eq_deliver, responseOf_toapd, toapdResponse_of_special hv]

/-! ### NEG (45_value_ops.md R128) -/

@[simp] theorem flipSign_flipSign (s : Sign) : flipSign (flipSign s) = s := by cases s <;> rfl

theorem flipSign_eq (s : Sign) : flipSign s = if s = .positive then .negative else .positive := by cases s <;> rfl

theorem exec_neg (s : State) (v : DecimalValue) : exec (.neg v) s = .next (s.deliver (.value (negValue v))) :=
  exec_eq_deliver ..

theorem negValue_of_finite {v : DecimalValue} (h : v.kind = .finite) :
    negValue v = { v with sign := flipSign v.sign } := if_pos h

theorem negValue_of_canonical {v : DecimalValue} (h : Canonical v) :
    negValue v = { v with sign := flipSign v.sign } := by
  by_cases hv : v.kind = .finite
  · exact negValue_of_finite hv
  · rw [negValue_of_special hv, h.eq_specialValue hv]
    rfl

@[simp] theorem negValue_finiteValue (s : Sign) (c : Nat) (e : Int) :
    negValue (finiteValue s c e) = finiteValue (flipSign s) c e := negValue_of_finite rfl

@[simp] theorem negValue_specialValue (s : Sign) (k : Kind) :
    negValue (specialValue s k) = specialValue (flipSign s) k := negValue_of_canonical (canonical_specialValue s k)

@[simp] theorem negValue_kind (v : DecimalValue) : (negValue v).kind = v.kind := by
  unfold negValue canon
  split <;> rfl

@[simp] theorem negValue_sign (v : DecimalValue) : (negValue v).sign = flipSign v.sign := by
  unfold negValue canon
  split <;> rfl

/-- Settles O51: by whether the value is finite. -/
theorem negResult : Obligations.NegResult := by
  intro s v
  rw [exec_neg]
  by_cases hv : v.kind = .finite
  · rw [negValue_of_finite hv, flipSign_eq, if_pos hv, if_pos hv]
  · rw [negValue_of_special hv, specialValue, flipSign_eq, if_neg hv, if_neg hv]

/-! ### The operations of a format on ready tables -/

section Exec
variable {s : State} (hs : s.TablesReady) (f : Fmt) (v : DecimalValue)
include hs

theorem exec_rescale : exec (.rescale f v) s = .next (s.deliver (.value (rescaleValue (descriptorTable f) v))) := by
  rw [exec_eq_deliver, responseOf_rescale, hs.descriptor_eq, rescaleResponse]

theorem exec_round : exec (.round f v) s = .next (s.deliver (.value (roundValue (descriptorTable f) v))) := by
  rw [exec_eq_deliver, responseOf_round, hs.descriptor_eq, roundResponse]

theorem exec_validate : exec (.validate f v) s = .next (s.deliver (validateResponse (descriptorTable f) v)) := by
  rw [exec_eq_deliver, responseOf_validate, hs.descriptor_eq]

theorem exec_encode : exec (.encode f v) s = .next (s.deliver (encodeResponse (descriptorTable f) v)) := by
  rw [exec_eq_deliver, responseOf_encode, hs.descriptor_eq]

end Exec

/-! ### What NEG commutes with (45_value_ops.md R129): the engine's operations look at no sign -/

theorem negValue_negValue (v : DecimalValue) : negValue (negValue v) = canon v := by
  by_cases hv : v.kind = .finite
  · rw [negValue_of_finite (negValue_kind v ▸ hv), negValue_of_finite hv, flipSign_flipSign, canon, if_pos hv]
  · rw [negValue_of_special hv, negValue_specialValue, flipSign_flipSign, canon_of_special hv]

section Engine
variable (F : Descriptor) (v : DecimalValue)

theorem rescaleValue_negValue : rescaleValue F (negValue v) = negValue (rescaleValue F v) := by
  have hkind := negValue_kind v
  by_cases hv : v.kind = .finite
  · rw [rescaleValue, if_pos (hkind.trans hv), rescaleValue, if_pos hv, negValue_finiteValue, negValue_of_finite hv]
  · rw [rescaleValue_of_special (hkind ▸ hv), rescaleValue_of_special hv, negValue_specialValue, negValue_sign, hkind]

theorem roundValue_negValue : roundValue F (negValue v) = negValue (roundValue F v) := by
  have hkind := negValue_kind v
  by_cases hv : v.kind = .finite
  · rw [roundValue_of_finite F (hkind.trans hv), roundValue_of_finite F hv, apply_ite negValue, negValue_specialValue,
      negValue_finiteValue, negValue_of_finite hv]
  · rw [roundValue_of_special (hkind ▸ hv), roundValue_of_special hv, negValue_specialValue, negValue_sign, hkind]

theorem validateResponse_negValue : validateResponse F (negValue v) = validateResponse F v := by
  by_cases hv : v.kind = .finite
  · rw [negValue_of_finite hv]
    rfl
  · rw [validateResponse_of_special (negValue_kind v ▸ hv), validateResponse_of_special hv]

theorem encodeResponse_negValue : encodeResponse F (negValue v) = encodeResponse F { v with sign := flipSign v.sign } := by
  by_cases hv : v.kind = .finite
  · rw [negValue_of_finite hv]
  · rw [encodeResponse_of_special (negValue_kind v ▸ hv), negValue_sign, negValue_kind]
    exact (encodeResponse_of_special (v := { v with sign := flipSign v.sign }) hv F).symm

end Engine

theorem exists_overflow_of_invalid {F : Descriptor} {v : DecimalValue} (hv : v.kind = .finite) (hbad : ¬ ValidValue F v) :
    ∃ o, overflowOf F v.coefficient v.exponent = some o := by
  unfold overflowOf
  split_ifs with he hc
  · exact ⟨_, rfl⟩
  · exact ⟨_, rfl⟩
  · exact absurd ⟨hv, validFor_iff.2 ⟨Bool.eq_true_of_not_eq_false he, Bool.eq_true_of_not_eq_false hc⟩⟩ hbad

/-- ENCODE's fault reports exponent or coefficient, which NEG leaves. -/
theorem encodeResponse_negValue_of_invalid {F : Descriptor} {v : DecimalValue} (hv : v.kind = .finite)
    (hbad : ¬ ValidValue F v) : encodeResponse F (negValue v) = encodeResponse F v := by
  obtain ⟨o, ho⟩ := exists_overflow_of_invalid hv hbad
  rw [encodeResponse_negValue, encodeResponse_of_some hv ho,
    encodeResponse_of_some (v := { v with sign := flipSign v.sign }) hv ho]

/-! ### The sign bit of an encoded word (44_binary_codec.md R117, R118) -/

/-- The sign is the word's top bit, over a rest that does not depend on it. -/
theorem exists_encode_word (f : Fmt) {v : DecimalValue} (h : v.kind ≠ .finite ∨ ValidValue (descriptorTable f) v) :
    ∃ W, ∀ s, encodeResponse (descriptorTable f) { v with sign := s } =
      .bytes (bytesOf (f.totalBits / 8) (s.code.toNat * 2 ^ (f.totalBits - 1) + W)) := by
  rcases h with hv | hv
  · refine ⟨specialTag v.kind * 2 ^ (f.totalBits - 7), fun s => ?_⟩
    have htop : f.totalBits - 1 = 6 + (f.totalBits - 7) := by cases f <;> rfl
    rw [encodeResponse_of_special (v := { v with sign := s }) hv, encodeSpecial, descriptorTable_byteLength,
      descriptorTable_totalBits, htop, pow_add, add_mul, mul_assoc]
  · refine ⟨encodeFinite (descriptorTable f) .positive v.coefficient v.exponent, fun s => ?_⟩
    have htop : f.totalBits - 1 =
        5 + (descriptorTable f).exponentContinuationBits + (descriptorTable f).coefficientContinuationBits := by
      have := totalBits_eq f
      omega
    have hpositive : Sign.positive.code.toNat = 0 := rfl
    rw [encodeResponse_of_valid (v := { v with sign := s }) hv, descriptorTable_byteLength, htop]
    simp only [encodeFinite, joinWord, hpositive]
    ring_nf

/-- Bytes that ENCODE answers are of the format's length. -/
theorem byteLength_of_encode {f : Fmt} {v : DecimalValue} {bs : ByteString}
    (h : encodeResponse (descriptorTable f) v = .bytes bs) : bs.len.toNat = f.totalBits / 8 := by
  have hlen (W : Nat) : (bytesOf (descriptorTable f).byteLength W).len.toNat = f.totalBits / 8 := by cases f <;> rfl
  unfold encodeResponse at h
  split at h
  · split at h
    · cases h
    · cases h
      exact hlen _
  · cases h
    exact hlen _

/-- Two byte strings of one length that differ in the sign bit only. -/
def SignBitFlipped (bs bs' : ByteString) : Prop :=
  bs'.len = bs.len ∧ bs'.data[0] = bs.data[0] ^^^ 0x80 ∧ ∀ (i : Nat) (h : i < 16), 0 < i → bs'.data[i] = bs.data[i]

/-- In the first byte the sign bit has weight `2^7`. -/
theorem ofNat_flipSign (s : Sign) (x : Nat) :
    BitVec.ofNat 8 ((flipSign s).code.toNat * 2 ^ 7 + x) = BitVec.ofNat 8 (s.code.toNat * 2 ^ 7 + x) ^^^ 0x80 := by
  rw [BitVec.ofNat_add, BitVec.ofNat_add]
  generalize BitVec.ofNat 8 x = b
  cases s <;> decide +revert

theorem mul_two_pow_add_div (c j k W : Nat) : (c * 2 ^ (j + k) + W) / 2 ^ k = c * 2 ^ j + W / 2 ^ k := by
  rw [pow_add, ← mul_assoc, add_comm, Nat.add_mul_div_right _ _ (by positivity), add_comm]

theorem ofNat_mul_two_pow_add (c j x : Nat) : BitVec.ofNat 8 (c * 2 ^ (8 + j) + x) = BitVec.ofNat 8 x := by
  apply BitVec.eq_of_toNat_eq
  rw [BitVec.toNat_ofNat, BitVec.toNat_ofNat, pow_add, mul_left_comm, Nat.mul_add_mod]

/-- A word's top bit is its first byte's. -/
theorem signBitFlipped_bytesOf {n : Nat} (hn : 0 < n) (s : Sign) (W : Nat) :
    SignBitFlipped (bytesOf n (s.code.toNat * 2 ^ (8 * n - 1) + W))
      (bytesOf n ((flipSign s).code.toNat * 2 ^ (8 * n - 1) + W)) := by
  refine ⟨rfl, ?_, fun i hi h0 => ?_⟩
  · have htop : 8 * n - 1 = 7 + 8 * (n - 1) := by omega
    rw [bytesOf_data _ _ (by decide), bytesOf_data _ _ (by decide), if_pos hn, if_pos hn, Nat.sub_zero, htop,
      mul_two_pow_add_div, mul_two_pow_add_div, ofNat_flipSign]
  · rw [bytesOf_data _ _ hi, bytesOf_data _ _ hi]
    split
    case isFalse => rfl
    case isTrue hlt =>
      have htop : 8 * n - 1 = 8 + (8 * i - 1) + 8 * (n - 1 - i) := by omega
      rw [htop, mul_two_pow_add_div, mul_two_pow_add_div, ofNat_mul_two_pow_add, ofNat_mul_two_pow_add]

/-- NEG changes ENCODE's bytes in the sign bit only (R129). -/
theorem exists_encode_signBitFlipped (f : Fmt) {v : DecimalValue}
    (h : v.kind ≠ .finite ∨ ValidValue (descriptorTable f) v) :
    ∃ bs bs', encodeResponse (descriptorTable f) v = .bytes bs ∧
      encodeResponse (descriptorTable f) (negValue v) = .bytes bs' ∧ SignBitFlipped bs bs' := by
  obtain ⟨W, hW⟩ := exists_encode_word f h
  have hflip := signBitFlipped_bytesOf (byteLength_bounds f).1 v.sign W
  rw [← totalBits_eq_bytes] at hflip
  exact ⟨_, _, hW v.sign, (encodeResponse_negValue ..).trans (hW _), hflip⟩

/-! ### DECODE of words that differ in the sign bit -/

/-- Numerals of the same digits after beginnings that agree modulo `k` agree modulo `k` times the weight of those digits. -/
theorem foldl_radix_modEq {α : Type*} {m k : Nat} (d : α → Nat) (l : List α) {a b : Nat} (h : a ≡ b [MOD k]) :
    l.foldl (fun w x => w * m + d x) a ≡ l.foldl (fun w x => w * m + d x) b [MOD k * m ^ l.length] := by
  induction l generalizing a b k with
  | nil => simpa using h
  | cons x l ih =>
    rw [List.foldl_cons, List.foldl_cons, List.length_cons, pow_succ', ← mul_assoc]
    exact ih ((h.mul_right' m).add_right _)

/-- The numeral of a word begins with byte 0. -/
theorem wordOf_succ (m : Nat) (bs : ByteString) : wordOf (m + 1) bs =
    ((bs.data.toList.drop 1).take m).foldl (fun w b => w * 256 + b.toNat) bs.data[0].toNat := by
  have hcons : bs.data.toList = bs.data[0] :: bs.data.toList.drop 1 := by
    simpa using (List.cons_getElem_drop_succ (l := bs.data.toList) (n := 0) (h := by simp)).symm
  rw [wordOf, hcons, List.take_succ_cons, List.foldl_cons, zero_mul, zero_add, List.drop_succ_cons, List.drop_zero]

theorem SignBitFlipped.wordOf_modEq {bs bs' : ByteString} (h : SignBitFlipped bs bs') {n : Nat} (h0 : 0 < n)
    (hn : n ≤ 16) : wordOf n bs' ≡ wordOf n bs [MOD 2 ^ (8 * n - 1)] := by
  obtain ⟨-, hfirst, hlater⟩ := h
  obtain ⟨m, rfl⟩ : ∃ m, n = m + 1 := ⟨n - 1, by omega⟩
  have hdrop : bs'.data.toList.drop 1 = bs.data.toList.drop 1 :=
    List.ext_getElem (by simp) fun i hi _ => by
      have hi' : i + 1 < 16 := by rw [List.length_drop, Vector.length_toList] at hi; omega
      simpa using hlater (i + 1) hi' i.succ_pos
  have hbyte : bs'.data[0].toNat ≡ bs.data[0].toNat [MOD 2 ^ 7] := by
    rw [hfirst]
    generalize bs.data[0] = b
    decide +revert
  have hfold := foldl_radix_modEq (m := 256) BitVec.toNat ((bs.data.toList.drop 1).take m) hbyte
  have hlen : ((bs.data.toList.drop 1).take m).length = m := by
    rw [List.length_take, List.length_drop, Vector.length_toList]; omega
  have hexp : 8 * (m + 1) - 1 = 7 + 8 * m := by omega
  rw [hlen] at hfold
  rw [wordOf_succ, wordOf_succ, hdrop, hexp, pow_add, pow_mul]
  exact hfold

/-- A field below bit `n` is the same in words that agree below it (00_scope.md R9). -/
theorem slice_congr {n W W' hi lo : Nat} (h : W' ≡ W [MOD 2 ^ n]) (hhi : hi < n) (hlo : lo ≤ hi) :
    slice W' hi lo = slice W hi lo := by
  have hdvd : 2 ^ lo * 2 ^ (hi + 1 - lo) ∣ 2 ^ n := by
    rw [← pow_add]
    exact pow_dvd_pow 2 (by omega)
  rw [slice, slice, ← Nat.mod_mul_right_div_self, ← Nat.mod_mul_right_div_self, h.of_dvd hdvd]

/-- Below the sign bit a word decides all of the value but its sign. -/
theorem decodeWord_of_modEq (f : Fmt) (rom : Vector Triplet 1024) {W W' : Nat}
    (h : W' ≡ W [MOD 2 ^ (f.totalBits - 1)]) :
    decodeWord (descriptorTable f) rom W' =
      { decodeWord (descriptorTable f) rom W with sign := wordSign (descriptorTable f) W' } := by
  have hfield {hi lo : Nat} (hhi : hi < f.totalBits - 1) (hlo : lo ≤ hi) := slice_congr h hhi hlo
  have hG : wordCombination (descriptorTable f) W' = wordCombination (descriptorTable f) W := by
    rw [wordCombination, wordCombination, hfield (by cases f <;> decide) (by cases f <;> decide)]
  have h6 : wordBit6 (descriptorTable f) W' = wordBit6 (descriptorTable f) W :=
    hfield (by cases f <;> decide) (by cases f <;> decide)
  have hX : wordExponent (descriptorTable f) W' = wordExponent (descriptorTable f) W :=
    hfield (by cases f <;> decide) (by cases f <;> decide)
  have hC : wordCoefficient (descriptorTable f) W' = wordCoefficient (descriptorTable f) W :=
    hfield (by cases f <;> decide) (by cases f <;> decide)
  unfold decodeWord decodeFinite
  rw [hG, h6, hX, hC]
  split_ifs <;> rfl

theorem decodeWord_sign (F : Descriptor) (rom : Vector Triplet 1024) (W : Nat) :
    (decodeWord F rom W).sign = wordSign F W := by
  unfold decodeWord
  split_ifs <;> rfl

/-- Flipping the sign bit negates what DECODE gives (R129). -/
theorem SignBitFlipped.decodeWord_eq {bs bs' : ByteString} (h : SignBitFlipped bs bs') (f : Fmt)
    (rom : Vector Triplet 1024) :
    decodeWord (descriptorTable f) rom (wordOf (f.totalBits / 8) bs') =
      negValue (decodeWord (descriptorTable f) rom (wordOf (f.totalBits / 8) bs)) := by
  obtain ⟨hpos, hle⟩ := byteLength_bounds f
  have hmod := h.wordOf_modEq hpos hle
  obtain ⟨-, hfirst, -⟩ := h
  have hsign : wordSign (descriptorTable f) (wordOf (f.totalBits / 8) bs') =
      flipSign (wordSign (descriptorTable f) (wordOf (f.totalBits / 8) bs)) := by
    have hbit : bs'.data[0].getLsbD 7 = !bs.data[0].getLsbD 7 := by rw [hfirst]; simp
    rw [wordSign_wordOf, wordSign_wordOf, hbit]
    cases bs.data[0].getLsbD 7 <;> rfl
  rw [← totalBits_eq_bytes] at hmod
  rw [decodeWord_of_modEq f rom hmod, negValue_of_canonical (canonical_decodeWord ..), decodeWord_sign, hsign]

/-! ### NEG and the operations of a format, side by side (45_value_ops.md R129) -/

/-- Settles O52: special values are their sign and kind, the engine does not look at a finite value's sign, and the codec keeps
it in the word's top bit alone. -/
theorem negCommutes : Obligations.NegCommutes := by
  intro f v
  refine ⟨negValue v, rescaleValue (descriptorTable f) v, negValue (rescaleValue (descriptorTable f) v),
    roundValue (descriptorTable f) v, negValue (roundValue (descriptorTable f) v), fun s hs => ?_,
    fun ⟨hv, hbad⟩ s hs => ?_, fun h => ?_⟩
  · refine ⟨exec_neg .., ?_, exec_rescale hs f v, exec_neg .., ?_, exec_round hs f v, exec_neg .., ?_, ?_⟩
    · rw [exec_neg, negValue_negValue]
    · rw [exec_rescale hs, rescaleValue_negValue]
    · rw [exec_round hs, roundValue_negValue]
    · rw [exec_validate hs, exec_validate hs, validateResponse_negValue]
  · rw [exec_encode hs, exec_encode hs, encodeResponse_negValue_of_invalid hv hbad]
  · obtain ⟨bs, bs', henc, henc', hflip⟩ := exists_encode_signBitFlipped f h
    have hlen := byteLength_of_encode henc
    have hlen' := byteLength_of_encode henc'
    refine ⟨bs, bs', _, _, fun s hs => ⟨?_, ?_, exec_decode hs hlen, exec_neg .., ?_⟩, hflip⟩
    · rw [exec_encode hs, henc]
    · rw [exec_encode hs, henc']
    · rw [exec_decode hs hlen', hflip.decodeWord_eq]

end Sys2Proof.Machine

/-! PROOFS. Decoding what the encoder wrote (30_encoding.md section 1) and the fields a response depends on (10_state.md R22); the
step and its frame (10_state.md R21, R30; 20_memory.md R37, R39); the invariant (70_reset_and_hazards.md R151, R152). -/

namespace Sys2Proof

/-- Of an instruction's own byte the decoder reads no reserved bit, and the instruction's format. -/
theorem decode_encode_eq (P : Params) (i : Instr) :
    decode P (encode P i) = decodeOp P (i.format.getD .d32) (cmdOp i.commandByte) (i.payload P) := by
  have hrsv : cmdRsv i.commandByte = 0 := cmdRsv_eq_zero_iff.2 (by cases i <;> (rw [Instr.commandByte]; rfl))
  have hfmt : fmtOfCode (cmdFmt i.commandByte) = some (i.format.getD .d32) := by
    rw [fmtOfCode_eq_some_iff, cmdFmt_toNat]
    cases i <;> (rw [Instr.commandByte]; rfl)
  simp only [decode, encode, hrsv, hfmt, ne_eq, not_true_eq_false, if_false]

/-- Settles O2: each field is read back as it was written, and the command byte gives operation and format. -/
theorem decodeEncodeRoundTrip : Obligations.DecodeEncodeRoundTrip := by
  intro P i hP hi
  have hexp : 0 < P.expw := by have := hP.expw_ge; omega
  rw [decode_encode_eq]
  cases i with
  | biasexpD32 e | biasexpD64 e | biasexpD128 e =>
    rw [Instr.commandByte]
    conv_rhs => rw [← intField_intCode hexp hi]
    rfl
  | coefchkD32 u | coefchkD64 u | coefchkD128 u =>
    rw [Instr.commandByte]
    conv_rhs => rw [← intField_intCode P.coefw.succ_pos hi]
    rfl
  | fromapd a =>
    rw [Instr.commandByte]
    conv_rhs => rw [← Apd.read_code hP hi]
    rfl
  | rescaleD32 v | rescaleD64 v | rescaleD128 v | roundD32 v | roundD64 v | roundD128 v | validateD32 v | validateD64 v
  | validateD128 v | encodeD32 v | encodeD64 v | encodeD128 v | toapd v | neg v =>
    rw [Instr.commandByte]
    conv_rhs => rw [← DecimalValue.read_code hP hi]
    rfl
  | dpdenc | dpddec | fmtqD32 | fmtqD64 | fmtqD128 | lenchkD32 | lenchkD64 | lenchkD128 | decodeD32 | decodeD64
  | decodeD128 =>
    rw [Instr.commandByte]
    rfl

/-- Settles O1: by running the decoder on each byte. -/
theorem commandWordsDecode : Obligations.CommandWordsDecode := by
  unfold Obligations.CommandWordsDecode
  decide

end Sys2Proof

namespace Sys2Proof.Machine

/-! ### Which payload fields a response depends on (10_state.md R22) -/

/-- The response is that of the instruction decoded, so payloads that decode alike up to the response get the same. -/
theorem responseTo_congr {s : State} {cmd : BitVec 8} {p q : Payload}
    (h : (decode s.params { cmd := cmd, payload := p }).map (responseOf s) =
      (decode s.params { cmd := cmd, payload := q }).map (responseOf s)) :
    responseTo s { cmd := cmd, payload := p } = responseTo s { cmd := cmd, payload := q } := by
  unfold responseTo
  cases hp : decode s.params { cmd := cmd, payload := p } <;> cases hq : decode s.params { cmd := cmd, payload := q } <;>
    simp_all [Except.map]

/-- A word depends on the bytes it is made of. -/
theorem wordOf_congr {n : Nat} {bs bs' : ByteString}
    (h : ∀ (i : Nat) (hi : i < 16), i < n → bs.data[i] = bs'.data[i]) : wordOf n bs = wordOf n bs' := by
  have htake : bs.data.toList.take n = bs'.data.toList.take n :=
    List.ext_getElem (by simp) fun i hi _ => by
      simp only [List.length_take, Vector.length_toList] at hi
      simpa using h i (by omega) (by omega)
  rw [wordOf, wordOf, htake]

theorem lenchkResponse_congr {F : Descriptor} {bs bs' : ByteString} (h : bs.len = bs'.len) :
    lenchkResponse F bs = lenchkResponse F bs' := by
  rw [lenchkResponse, lenchkResponse, lengthFault, lengthFault, h]

/-- DECODE reads bytes below the length only: of the right length, a byte string is the word of that many bytes. -/
theorem decodeResponse_congr {F : Descriptor} {rom : Vector Triplet 1024} {bs bs' : ByteString} (hlen : bs.len = bs'.len)
    (h : ∀ (i : Nat) (hi : i < 16), i < bs.len.toNat → bs.data[i] = bs'.data[i]) :
    decodeResponse F rom bs = decodeResponse F rom bs' := by
  by_cases hF : bs.len.toNat = F.byteLength
  · rw [decodeResponse_of_eq rom hF, decodeResponse_of_eq rom (hlen ▸ hF), wordOf_congr (hF ▸ h)]
  · rw [decodeResponse_of_ne rom hF, decodeResponse_of_ne rom (hlen ▸ hF), hlen]

/-- Payloads alike for an operation decode to instructions with the same response, if they decode. -/
theorem map_responseOf_decodeOp (s : State) (f : Fmt) {op : BitVec 4} {p q : Payload} (h : samePayloadFor op.toNat p q) :
    (decodeOp s.params f op p).map (responseOf s) = (decodeOp s.params f op q).map (responseOf s) := by
  unfold decodeOp
  generalize op.toNat = n at h ⊢
  match n, h with
  | 0x0, ⟨h0, h1, h2⟩ => simp only [h0, h1, h2]
  | 0x1, h => exact congrArg (fun g => (independent f (.dpddec g)).map (responseOf s)) h
  | 0x2, _ => rfl
  | 0x3, h => exact congrArg (fun e => Except.ok (responseOf s (.biasexp f (intField s.params.expw e)))) h
  | 0x4, h => exact congrArg (fun u => Except.ok (responseOf s (.coefchk f (intField (s.params.coefw + 1) u)))) h
  | 0x5, h => simp only [Except.map, responseOf_lenchk, lenchkResponse_congr h]
  | 0x6, h => exact congrArg (fun v => Except.ok (responseOf s (.rescale f (v.read s.params)))) h
  | 0x7, h => exact congrArg (fun v => Except.ok (responseOf s (.round f (v.read s.params)))) h
  | 0x8, h => exact congrArg (fun v => Except.ok (responseOf s (.validate f (v.read s.params)))) h
  | 0x9, ⟨hlen, h⟩ => simp only [Except.map, responseOf_decode, decodeResponse_congr hlen h]
  | 0xA, h => exact congrArg (fun v => Except.ok (responseOf s (.encode f (v.read s.params)))) h
  | 0xB, h => exact congrArg (fun a => (independent f (.fromapd (a.read s.params))).map (responseOf s)) h
  | 0xC, h => exact congrArg (fun v => (independent f (.toapd (v.read s.params))).map (responseOf s)) h
  | 0xD, h => exact congrArg (fun v => (independent f (.neg (v.read s.params))).map (responseOf s)) h
  | _ + 14, _ => rfl

/-- Settles O5: of payloads alike for the operation the decoder makes instructions with the same response. -/
theorem onlyListedFieldsExamined : Obligations.OnlyListedFieldsExamined := by
  intro s cmd p q h
  rw [← cmdOp_toNat] at h
  have hdec : (decode s.params { cmd := cmd, payload := p }).map (responseOf s) =
      (decode s.params { cmd := cmd, payload := q }).map (responseOf s) := by
    unfold decode
    dsimp only
    split
    · rfl
    · cases fmtOfCode (cmdFmt cmd) with
      | none => rfl
      | some f => exact map_responseOf_decodeOp s f h
  rw [State.transact_eq, State.transact_eq, responseTo_congr hdec]

/-! ### The step and what it serves -/

/-- Settles O7: an instruction's `exec` delivers its response, and so does the step that serves it. -/
theorem stepRunsDecoded : Obligations.StepRunsDecoded := by
  intro s k r i hpick hdec
  rw [step_of_pick hpick, exec_eq_deliver, responseTo, hdec]

theorem State.pick_eq_none_iff {s : State} : s.pick = none ↔ ∀ p ∈ s.ports, p.requests = [] := by
  refine ⟨fun h p hp => State.requests_nil_of_pick_none h hp, fun h => ?_⟩
  cases hpick : s.pick with
  | none => rfl
  | some t =>
    obtain ⟨p, hp, hhead⟩ := State.pick_spec (k := t.1) (r := t.2) hpick
    simp [h p (List.mem_of_getElem? hp)] at hhead

/-- A step with nothing to serve. -/
theorem step_of_idle {s : State} (h : s.pick = none) : step s = .next s := by
  simp [step, State.fetch, h]

/-- Settles O8: every port is asked, and a port asked answers with its oldest request. -/
theorem idleStepChangesNothing : Obligations.IdleStepChangesNothing :=
  ⟨fun _ => State.pick_eq_none_iff, fun _ h => step_of_idle h, fun _ _ _ h => State.pick_spec h⟩

/-! ### Delivering a response, port by port -/

section Deliver
variable {s : State} {k : Nat} {q : Request} (h : s.pick = some (k, q)) (r : Response)
include h

theorem State.deliver_ports :
    (s.deliver r).ports = s.ports.modify k (Port.answered (r.code s.params)) := by
  rw [State.deliver_at h]

theorem State.deliver_turn : (s.deliver r).turn = (k + 1) % s.ports.length := by
  rw [State.deliver_at h]

/-- Every port but the one served is left as it is. -/
theorem State.deliver_other {j : Nat} (hj : j ≠ k) : (s.deliver r).ports[j]? = s.ports[j]? := by
  simp [State.deliver_ports h, Ne.symm hj]

/-- The port served, before and after. -/
theorem State.deliver_served : ∃ p, s.ports[k]? = some p ∧ p.requests.head? = some q ∧
    (s.deliver r).ports[k]? = some { requests := p.requests.tail, responses := p.responses ++ [r.code s.params] } := by
  obtain ⟨p, hp, hhead⟩ := State.pick_spec h
  refine ⟨p, hp, hhead, ?_⟩
  rw [State.deliver_ports h, List.getElem?_modify, hp]
  simp [Port.answered]

end Deliver

@[simp] theorem State.deliver_ports_length (s : State) (r : Response) : (s.deliver r).ports.length = s.ports.length := by
  cases h : s.pick with
  | none => rw [State.deliver_idle h]
  | some t => rw [State.deliver_ports h, List.length_modify]

/-- Settles O10: by the port served and the others. -/
theorem deliverAnswersOldest : Obligations.DeliverAnswersOldest :=
  ⟨fun _ r h => State.deliver_idle h r, fun s r _ _ h =>
    ⟨State.deliver_params s r, State.deliver_romFmt s r, State.deliver_romDpd s r, State.deliver_turn h r,
      State.deliver_ports_length s r, fun _ hj => State.deliver_other h r hj, State.deliver_served h r⟩⟩

/-- Settles O11: every instruction delivers a response and does nothing else. -/
theorem transactionFrame : Obligations.TransactionFrame := by
  intro i s t ht
  obtain rfl : s.deliver (responseOf s i) = t := by simpa [exec_eq_deliver] using ht
  refine ⟨State.deliver_params .., State.deliver_romFmt .., State.deliver_romDpd .., State.deliver_ports_length ..,
    fun h => State.deliver_idle h _, fun k q h => ⟨fun j hj => State.deliver_other h _ hj, ?_⟩⟩
  obtain ⟨p, hp, hhead, hp'⟩ := State.deliver_served h (responseOf s i)
  exact ⟨p, _, hp, hhead, hp'⟩

/-! ### The response to a request, and the responses to all of them (10_state.md R21, 20_memory.md R39) -/

/-- The response to a request depends on the parameters and the tables only. -/
theorem State.transact_congr {s t : State} (hp : t.params = s.params) (hf : t.romFmt = s.romFmt)
    (hd : t.romDpd = s.romDpd) (r : Request) : t.transact r = s.transact r := by
  have hresp : responseTo t r = responseTo s r := by
    unfold responseTo
    rw [hp]
    split
    · exact responseOf_congr hp hf hd _
    · rfl
  rw [State.transact_eq, State.transact_eq, hp, hresp]

@[simp] theorem State.transact_deliver (s : State) (r : Response) : (s.deliver r).transact = s.transact :=
  funext (State.transact_congr (State.deliver_params s r) (State.deliver_romFmt s r) (State.deliver_romDpd s r))

/-- Settles O13: the step that serves a request delivers the response it gets alone. -/
theorem responseFunctionOfRequest : Obligations.ResponseFunctionOfRequest := by
  refine ⟨fun s k r h => ?_, fun s t r hp hf hd => State.transact_congr hp hf hd r⟩
  obtain ⟨p, hp, -, hp'⟩ := State.deliver_served h (responseTo s r)
  exact ⟨_, p, _, step_of_pick h, State.transact_eq s r, hp, hp', State.deliver_romFmt .., State.deliver_romDpd ..,
    State.deliver_params ..⟩

/-- A sum over a list of which one entry is changed. -/
theorem sum_map_modify {α : Type*} (m : α → Nat) (g : α → α) {l : List α} {k : Nat} {a : α} (h : l[k]? = some a) :
    ((l.modify k g).map m).sum + m a = (l.map m).sum + m (g a) := by
  induction l generalizing k with
  | nil => simp at h
  | cons b l ih =>
    cases k with
    | zero =>
      obtain rfl : b = a := by simpa using h
      simp
      omega
    | succ k =>
      have := ih (k := k) (by simpa using h)
      simp
      omega

/-- Answering takes one request away. -/
theorem State.pendingCount_deliver {s : State} {k : Nat} {q : Request} (h : s.pick = some (k, q)) (r : Response) :
    (s.deliver r).pendingCount + 1 = s.pendingCount := by
  obtain ⟨p, hp, hhead⟩ := State.pick_spec h
  obtain ⟨rs, hreq⟩ : ∃ rs, p.requests = q :: rs := List.head?_eq_some_iff.1 hhead
  have hsum := sum_map_modify (fun p : Port => p.requests.length) (Port.answered (r.code s.params)) hp
  rw [State.pendingCount, State.deliver_ports h, State.pendingCount]
  simp only [Port.answered_requests, hreq, List.tail_cons, List.length_cons] at hsum
  omega

theorem State.pendingCount_eq_zero_iff {s : State} : s.pendingCount = 0 ↔ s.pick = none := by
  simp [State.pick_eq_none_iff, State.pendingCount, List.sum_eq_zero_iff]

/-- Settles O9: a step with work delivers, which takes one request away. -/
theorem everyStepAnswersOne : Obligations.EveryStepAnswersOne := by
  intro s
  obtain ⟨hidle, hs⟩ | ⟨k, r, hpick, hs⟩ := step_cases s
  · exact ⟨s, hs, fun h => absurd (State.pendingCount_eq_zero_iff.2 hidle) h.ne'⟩
  · exact ⟨_, hs, fun _ => State.pendingCount_deliver hpick _⟩

/-- What `AllAnsweredInOrder` says of two states: every port of `s` has in `t` the responses its requests get alone behind its
earlier ones, and no request. -/
def AllAnswered (s t : State) : Prop :=
  t.ports.length = s.ports.length ∧ ∀ (k : Nat) (p : Port), s.ports[k]? = some p →
    ∃ prs : List PortResponse, p.requests.map s.transact = prs.map some ∧
      t.ports[k]? = some { requests := [], responses := p.responses ++ prs }

theorem allAnswered_of_idle {s : State} (h : s.pick = none) : AllAnswered s s := by
  refine ⟨rfl, fun k p hp => ⟨[], ?_, ?_⟩⟩
  · rw [State.requests_nil_of_pick_none h (List.mem_of_getElem? hp)]
    rfl
  · rw [hp, List.append_nil, ← State.requests_nil_of_pick_none h (List.mem_of_getElem? hp)]

/-- If all that is left after a step is answered in order, so is what was there before it. -/
theorem allAnswered_of_deliver {s t : State} {k : Nat} {q : Request} (h : s.pick = some (k, q))
    (ht : AllAnswered (s.deliver (responseTo s q)) t) : AllAnswered s t := by
  obtain ⟨hlen, hports⟩ := ht
  refine ⟨hlen.trans (State.deliver_ports_length ..), fun j p hp => ?_⟩
  by_cases hj : j = k
  · subst hj
    obtain ⟨p', hp', hhead, hserved⟩ := State.deliver_served h (responseTo s q)
    cases hp.symm.trans hp'
    obtain ⟨rs, hreq⟩ : ∃ rs, p.requests = q :: rs := List.head?_eq_some_iff.1 hhead
    obtain ⟨prs, hprs, htj⟩ := hports j _ hserved
    refine ⟨(responseTo s q).code s.params :: prs, ?_, ?_⟩
    · simp only [State.transact_deliver, hreq, List.tail_cons] at hprs
      rw [hreq, List.map_cons, List.map_cons, State.transact_eq, ← hprs]
    · rw [htj, List.append_assoc, List.singleton_append]
  · obtain ⟨prs, hprs, htj⟩ := hports j p ((State.deliver_other h _ hj).trans hp)
    exact ⟨prs, by simpa using hprs, htj⟩

theorem run_succ_of_step {M : Host.Core} {s t : M.State} (h : M.step s = .next t) (n : Nat) :
    M.run (n + 1) s = M.run n t := by
  rw [Host.Core.run, h]

theorem exists_run_allAnswered (n : Nat) :
    ∀ s : State, s.pendingCount = n → ∃ t, core.run n s = .next t ∧ AllAnswered s t := by
  induction n with
  | zero => exact fun s hs => ⟨s, rfl, allAnswered_of_idle (State.pendingCount_eq_zero_iff.1 hs)⟩
  | succ n ih =>
    intro s hs
    obtain ⟨hidle, -⟩ | ⟨k, q, hpick, hstep⟩ := step_cases s
    · exact absurd (State.pendingCount_eq_zero_iff.2 hidle) (by omega)
    · have hcount := State.pendingCount_deliver hpick (responseTo s q)
      obtain ⟨t, hrun, ht⟩ := ih (s.deliver (responseTo s q)) (by omega)
      exact ⟨t, (run_succ_of_step hstep n).trans hrun, allAnswered_of_deliver hpick ht⟩

/-- Settles O14: by induction on the number of requests pending. -/
theorem allAnsweredInOrder : Obligations.AllAnsweredInOrder := fun s => exists_run_allAnswered _ s rfl

/-! ### The invariant -/

/-- What the invariant says of a port. -/
def PortFits (P : Params) (p : Port) : Prop :=
  (∀ r ∈ p.requests, requestFits P r) ∧ ∀ r ∈ p.responses, responseFits P r

theorem State.Inv.portFits {s : State} (h : s.Inv) {p : Port} (hp : p ∈ s.ports) : PortFits s.params p :=
  ⟨h.requests p hp, h.responses p hp⟩

/-- Changing one port and the turn keeps the invariant if the port still fits and the turn names a port. -/
theorem State.Inv.modify {s : State} (h : s.Inv) {g : Port → Port} (hg : ∀ p, PortFits s.params p → PortFits s.params (g p))
    (k : Nat) {turn : Nat} (hturn : turn < s.params.nports) : State.Inv { s with ports := s.ports.modify k g, turn := turn } := by
  have hports : ∀ p ∈ s.ports.modify k g, PortFits s.params p := by
    intro p hp
    obtain ⟨j, hj⟩ := List.mem_iff_getElem?.1 hp
    rw [List.getElem?_modify, Option.map_eq_map, Option.map_eq_some_iff] at hj
    obtain ⟨p', hp', rfl⟩ := hj
    have hfits := h.portFits (List.mem_of_getElem? hp')
    split
    · exact hg p' hfits
    · exact hfits
  exact ⟨h.legal, ⟨h.tables.fmt, h.tables.dpd⟩, (List.length_modify ..).trans h.portCount, hturn,
    fun p hp => (hports p hp).1, fun p hp => (hports p hp).2⟩

theorem DecimalValue.fieldFits_code (P : Params) (v : DecimalValue) : fieldFits P (v.code P) :=
  ⟨natCode_lt .., intCode_lt ..⟩

theorem FaultInfo.infoFits_info (P : Params) (f : FaultInfo) : infoFits P (f.info P) := by
  cases f with
  | overflowError o =>
    cases o with
    | exp e => exact intCode_lt ..
    | coef c => exact natCode_lt ..
  | illegalOperand reason => cases reason <;> trivial
  | lengthError | inconvertibleValue | malformedNumericString | illegalCommand => trivial

/-- Writing a response into its fields leaves no bit over. -/
theorem Response.responseFits_code (P : Params) (r : Response) : responseFits P (r.code P) := by
  cases r with
  | descriptor D => exact natCode_lt ..
  | int n => exact intCode_lt ..
  | value v => exact DecimalValue.fieldFits_code P v
  | apd a => exact ⟨intCode_lt .., intCode_lt ..⟩
  | fault f => exact FaultInfo.infoFits_info P f
  | group | triplet | bool | pass | bytes => trivial

theorem PortFits.answered {P : Params} {p : Port} (h : PortFits P p) {pr : PortResponse} (hpr : responseFits P pr) :
    PortFits P (p.answered pr) := by
  obtain ⟨hreq, hresp⟩ := h
  refine ⟨fun r hr => hreq r (List.mem_of_mem_tail hr), fun r hr => ?_⟩
  rw [Port.answered_responses, List.mem_append, List.mem_singleton] at hr
  obtain hr | rfl := hr
  · exact hresp r hr
  · exact hpr

theorem State.Inv.deliver {s : State} (h : s.Inv) (r : Response) : (s.deliver r).Inv := by
  cases hpick : s.pick with
  | none => rwa [State.deliver_idle hpick]
  | some t =>
    rw [State.deliver_at hpick]
    refine h.modify (fun p hp => hp.answered (Response.responseFits_code ..)) _ ?_
    rw [h.portCount]
    exact Nat.mod_lt _ h.legal.nports_ge

/-- Settles O15: all a step does is deliver a response, in its own fields. -/
theorem stepKeepsInvariant : Obligations.StepKeepsInvariant := by
  intro s t h hst
  obtain ⟨-, hs⟩ | ⟨k, r, -, hs⟩ := step_cases s
  · cases hs.symm.trans hst
    exact h
  · cases hs.symm.trans hst
    exact h.deliver _

theorem State.afterReset_inv {P : Params} (hP : P.Legal) : (State.afterReset P).Inv where
  legal := hP
  tables := State.afterReset_tablesReady P
  portCount := List.length_replicate
  turn := hP.nports_ge
  requests p hp r hr := by
    cases List.eq_of_mem_replicate hp
    cases hr
  responses p hp r hr := by
    cases List.eq_of_mem_replicate hp
    cases hr

/-- Settles O17: the tables are filled and the ports are empty. -/
theorem resetHasInvariant : Obligations.ResetHasInvariant :=
  ⟨State.afterReset_inv ⟨by decide, by decide, by decide⟩, fun _ hP => State.afterReset_inv hP⟩

/-- Settles O16: presenting and taking change one port, and reset gives the state after reset. -/
theorem hostActionsKeepInvariant : Obligations.HostActionsKeepInvariant := by
  refine fun s h => ⟨fun k r hr => State.Inv.modify h (g := fun p => { p with requests := p.requests ++ [r] }) ?_ k h.turn,
    fun k => State.Inv.modify h (g := fun p => { p with responses := p.responses.tail }) ?_ k h.turn,
    State.afterReset_inv h.legal⟩
  · rintro p ⟨hreq, hresp⟩
    refine ⟨fun q hq => ?_, hresp⟩
    obtain hq | hq := List.mem_append.1 hq
    · exact hreq q hq
    · rwa [List.mem_singleton.1 hq]
  · rintro p ⟨hreq, hresp⟩
    exact ⟨hreq, fun r hr => hresp r (List.mem_of_mem_tail hr)⟩

/-- Settles O19: the port a step serves has a request, and reset leaves only empty ports. -/
theorem resetDropsRequests : Obligations.ResetDropsRequests := by
  refine ⟨fun s t k p hst hp hreq => ?_, fun s h => step_of_idle (State.pick_eq_none_iff.2 h),
    fun s p hp => State.eq_empty_of_mem_applyReset hp⟩
  obtain ⟨-, hs⟩ | ⟨j, r, hpick, hs⟩ := step_cases s
  · cases hs.symm.trans hst
    exact hp
  · cases hs.symm.trans hst
    have hkj : k ≠ j := by
      rintro rfl
      obtain ⟨p', hp', hhead⟩ := State.pick_spec hpick
      cases hp.symm.trans hp'
      simp [hreq] at hhead
    rw [State.deliver_other hpick _ hkj, hp]

end Sys2Proof.Machine

/-! PROOFS. The laws of RESCALE and ROUND (43_rescale_round.md R105): what each keeps, where each ends, when ROUND saturates. -/

namespace Sys2Proof.Machine

/-! ### The number of digits (00_scope.md R10) -/

theorem digits_eq_of_bounds {c n : Nat} (hc : 0 < c) (hlow : 10 ^ (n - 1) ≤ c) (hhigh : c < 10 ^ n) : digits c = n := by
  have hn : n ≠ 0 := by rintro rfl; omega
  have hle := digits_le_of_lt_pow (Nat.pos_of_ne_zero hn) hhigh
  have hge := (Nat.pow_lt_pow_iff_right (by decide)).1 (hlow.trans_lt (lt_pow_digits c))
  omega

/-- Settles O27: the count lies between the two powers, and no other number does. -/
theorem digitsCounted : Obligations.DigitsCounted := by
  refine fun c n => ⟨?_, ?_⟩
  · rintro rfl
    obtain rfl | hc := Nat.eq_zero_or_pos c
    · exact .inl ⟨rfl, digits_zero⟩
    · exact .inr ⟨hc, (digits_bounds hc).2⟩
  · rintro (⟨rfl, rfl⟩ | ⟨hc, hlow, hhigh⟩)
    · exact digits_zero
    · exact digits_eq_of_bounds hc hlow hhigh

theorem digits_mul_ten_pow {c : Nat} (hc : 0 < c) (k : Nat) : digits (c * 10 ^ k) = digits c + k := by
  obtain ⟨hpos, hlow, hhigh⟩ := digits_bounds hc
  have hexp : digits c + k - 1 = digits c - 1 + k := by omega
  refine digits_eq_of_bounds (by positivity) ?_ ?_
  · rw [hexp, pow_add]
    exact Nat.mul_le_mul_right _ hlow
  · rw [pow_add]
    exact Nat.mul_lt_mul_of_pos_right hhigh (by positivity)

theorem digits_le_iff {c p : Nat} (hp : 0 < p) : digits c ≤ p ↔ c < 10 ^ p :=
  ⟨fun h => (lt_pow_digits c).trans_le (Nat.pow_le_pow_right (by decide) h), digits_le_of_lt_pow hp⟩

/-! ### RESCALE -/

theorem biased_add (F : Descriptor) (e k : Int) : biased F (e + k) = biased F e + k := by
  rw [biased, biased]; ring

theorem biased_sub (F : Descriptor) (e k : Int) : biased F (e - k) = biased F e - k := by
  rw [biased, biased]; ring

/-- R95 where the exponent is too high: the zeros that reach the largest exponent fit and are appended, or nothing changes. -/
theorem lowerExponent_cases {F : Descriptor} (c : Nat) {e : Int} (he : (F.maxBiasedExponent : Int) < biased F e) :
    ∃ k : Nat, 0 < k ∧ biased F e = F.maxBiasedExponent + k ∧
      ((c = 0 ∨ digits c + k ≤ F.coefficientDigits) ∧ lowerExponent F c e = (c * 10 ^ k, e - k) ∨
        (0 < c ∧ F.coefficientDigits < digits c + k) ∧ lowerExponent F c e = (c, e)) := by
  obtain ⟨k, hk⟩ := Int.le.dest he.le
  have hexp : (F.maxBiasedExponent : Int) - F.exponentBias = e - k := by rw [biased] at hk; omega
  have htoNat : (e + F.exponentBias - F.maxBiasedExponent).toNat = k := by rw [biased] at hk; omega
  refine ⟨k, by omega, hk.symm, ?_⟩
  rw [lowerExponent_eq, htoNat, hexp]
  split_ifs with hzero hfits
  · exact .inl ⟨.inl hzero, by rw [hzero, zero_mul]⟩
  · exact .inl ⟨.inr hfits, rfl⟩
  · exact .inr ⟨by omega, rfl⟩

/-- RESCALE leaves the record, or moves `k` zeros between coefficient and exponent until the biased exponent is 0 or the
largest. -/
theorem rescaleFinite_cases (F : Descriptor) (c : Nat) (e : Int) :
    rescaleFinite F c e = (c, e) ∨
    (∃ (c' k : Nat), biased F e = -k ∧ c = c' * 10 ^ k ∧ rescaleFinite F c e = (c', e + k)) ∨
    ∃ k : Nat, 0 < k ∧ biased F e = F.maxBiasedExponent + k ∧ (c = 0 ∨ digits c + k ≤ F.coefficientDigits) ∧
      rescaleFinite F c e = (c * 10 ^ k, e - k) := by
  have hbiased : e + F.exponentBias = biased F e := rfl
  rw [rescaleFinite_eq, hbiased]
  split_ifs with hlow hdvd hhigh
  · have hexp : -(F.exponentBias : Int) = e + (-biased F e).toNat := by rw [biased] at hlow ⊢; omega
    exact .inr (.inl ⟨_, (-biased F e).toNat, by omega, (Nat.div_mul_cancel (Nat.dvd_of_mod_eq_zero hdvd)).symm,
      by rw [hexp]⟩)
  · exact .inl rfl
  · obtain ⟨k, hk, hbe, ⟨hfits, h⟩ | ⟨-, h⟩⟩ := lowerExponent_cases c hhigh
    · exact .inr (.inr ⟨k, hk, hbe, hfits, h⟩)
    · exact .inl h
  · exact .inl rfl

/-- Zeros moved between coefficient and exponent leave the number (10_state.md R17 (c)). -/
theorem mul_ten_pow_mul_zpow (c k : Nat) (e : Int) : ((c * 10 ^ k : Nat) : ℚ) * 10 ^ e = c * 10 ^ (e + k) := by
  rw [zpow_add₀ (by norm_num), zpow_natCast]
  push_cast
  ring

theorem rescaleFinite_denotes (F : Descriptor) (c : Nat) (e : Int) :
    ((rescaleFinite F c e).1 : ℚ) * 10 ^ (rescaleFinite F c e).2 = c * 10 ^ e := by
  obtain h | ⟨c', k, -, rfl, h⟩ | ⟨k, -, -, -, h⟩ := rescaleFinite_cases F c e
  · rw [h]
  · rw [h, mul_ten_pow_mul_zpow]
  · rw [h, mul_ten_pow_mul_zpow, sub_add_cancel]

theorem rescaleFinite_exponent (F : Descriptor) (c : Nat) (e : Int) :
    rescaleFinite F c e = (c, e) ∨ biased F (rescaleFinite F c e).2 = 0 ∨
      biased F (rescaleFinite F c e).2 = F.maxBiasedExponent := by
  obtain h | ⟨c', k, hk, -, h⟩ | ⟨k, -, hk, -, h⟩ := rescaleFinite_cases F c e
  · exact .inl h
  · exact .inr (.inl (by rw [h, biased_add, hk]; omega))
  · exact .inr (.inr (by rw [h, biased_sub, hk]; omega))

theorem denotes_eq (v : DecimalValue) :
    denotes v = (if v.sign = .negative then -1 else 1) * (v.coefficient * 10 ^ v.exponent) := by
  rw [denotes, signedCoefficient_eq]
  split_ifs <;> push_cast <;> ring

/-- Settles O31: by the zeros RESCALE moves. -/
theorem rescaleExact : Obligations.RescaleExact := by
  intro f v hv
  refine ⟨_, fun s hs => exec_rescale hs f v, ?_⟩
  rw [rescaleValue_of_finite _ hv]
  refine ⟨hv, rfl, ?_, fun hne => ?_⟩
  · rw [denotes_eq, denotes_eq]
    dsimp only
    rw [rescaleFinite_denotes]
  · refine (rescaleFinite_exponent (descriptorTable f) v.coefficient v.exponent).resolve_left fun h => hne ?_
    rw [h]

/-! ### ROUND: where it ends -/

/-- Rounding a digit or more away does not make a coefficient larger. -/
theorem rhe_le_self (c k : Nat) : rhe c k ≤ c := by
  obtain rfl | hk := Nat.eq_zero_or_pos k
  · rw [rhe_zero]
  · have hten : 10 ≤ 10 ^ k := Nat.le_self_pow hk.ne' 10
    have hdiv : c / 10 ^ k ≤ c / 10 := Nat.div_le_div_left hten (by decide)
    have hmod : c % 10 ^ k ≤ c := Nat.mod_le ..
    obtain ⟨-, ⟨h, -⟩ | ⟨h, hr⟩⟩ := rhe_down_or_up c hk <;> omega

/-- What R98 keeps of a coefficient: all of it, or its `p` leading digits, rounded. -/
def keptDigits (p c : Nat) : Nat := rhe c (digits c - p)

theorem keptDigits_le (p c : Nat) : keptDigits p c ≤ 10 ^ p := by
  have hlt : c < 10 ^ p * 10 ^ (digits c - p) := by
    rw [← pow_add]
    exact (lt_pow_digits c).trans_le (Nat.pow_le_pow_right (by decide) (by omega))
  have hdiv : c / 10 ^ (digits c - p) < 10 ^ p := Nat.div_lt_of_lt_mul (by rwa [mul_comm] at hlt)
  obtain hd | hd := Nat.eq_zero_or_pos (digits c - p)
  · rw [keptDigits, hd, rhe_zero]
    simp only [hd, pow_zero, mul_one] at hlt
    exact hlt.le
  · obtain ⟨-, ⟨h, -⟩ | ⟨h, -⟩⟩ := rhe_down_or_up c hd <;> rw [keptDigits] <;> omega

/-- R98: at most `p` digits, of the number of the digits kept. -/
theorem roundPrecision_spec {p : Nat} (hp : 0 < p) (c : Nat) (e : Int) :
    (roundPrecision p c e).1 < 10 ^ p ∧
      ((roundPrecision p c e).1 : ℚ) * 10 ^ (roundPrecision p c e).2 = keptDigits p c * 10 ^ (e + (digits c - p : Nat)) := by
  obtain ⟨m, rfl⟩ : ∃ m, p = m + 1 := ⟨p - 1, by omega⟩
  have hle := keptDigits_le (m + 1) c
  unfold roundPrecision
  split
  case isTrue hd =>
    dsimp only
    split
    case isTrue hcarry =>
      rw [keptDigits, hcarry]
      refine ⟨Nat.pow_lt_pow_right (by decide) (by omega), ?_⟩
      have := mul_ten_pow_mul_zpow (10 ^ m) 1 (e + (digits c - (m + 1) : Nat))
      rw [← pow_add] at this
      rw [this]
      rfl
    case isFalse hcarry => exact ⟨lt_of_le_of_ne hle hcarry, rfl⟩
  case isFalse hd =>
    dsimp only
    have hzero : digits c - (m + 1) = 0 := by omega
    refine ⟨(digits_le_iff hp).1 (by omega), ?_⟩
    rw [keptDigits, hzero, rhe_zero, Nat.cast_zero, add_zero]

theorem coefficientDigits_pos (f : Fmt) : 0 < (descriptorTable f).coefficientDigits := by
  cases f <;> decide

/-- R99 leaves a value whose digits do not reach down to the largest exponent, and otherwise ends on a legal exponent with at
most `p` digits. -/
theorem roundExponent_cases {F : Descriptor} {c : Nat} (hp : 0 < F.coefficientDigits) (hc : c < 10 ^ F.coefficientDigits)
    (e : Int) :
    (F.maxBiasedExponent < biased F e ∧ 10 ^ F.coefficientDigits ≤ c * 10 ^ (biased F e - F.maxBiasedExponent).toNat ∧
        roundExponent F c e = (c, e)) ∨
      (c * 10 ^ (biased F e - F.maxBiasedExponent).toNat < 10 ^ F.coefficientDigits ∧
        (roundExponent F c e).1 < 10 ^ F.coefficientDigits ∧ 0 ≤ biased F (roundExponent F c e).2 ∧
        biased F (roundExponent F c e).2 ≤ F.maxBiasedExponent) := by
  unfold roundExponent
  split_ifs with hlow hhigh
  · have hzero : (biased F e - F.maxBiasedExponent).toNat = 0 := by omega
    have hmin : biased F (minExponent F) = 0 := neg_add_cancel _
    refine .inr ⟨by rwa [hzero, pow_zero, mul_one], (rhe_le_self ..).trans_lt hc, ?_⟩
    dsimp only
    omega
  · obtain ⟨k, -, hbe, ⟨hfits, h⟩ | ⟨⟨hpos, hwide⟩, h⟩⟩ := lowerExponent_cases c hhigh
    all_goals
      have hk : (biased F e - F.maxBiasedExponent).toNat = k := by omega
      rw [hk, h]
    · have hlt : c * 10 ^ k < 10 ^ F.coefficientDigits := by
        obtain rfl | hpos := Nat.eq_zero_or_pos c
        · rw [zero_mul]
          positivity
        · rw [← digits_le_iff hp, digits_mul_ten_pow hpos]
          exact hfits.resolve_left hpos.ne'
      refine .inr ⟨hlt, hlt, ?_⟩
      dsimp only
      rw [biased_sub]
      omega
    · rw [← not_lt, ← digits_le_iff hp, digits_mul_ten_pow hpos]
      exact .inl ⟨hhigh, by omega, rfl⟩
  · have hzero : (biased F e - F.maxBiasedExponent).toNat = 0 := by omega
    exact .inr ⟨by rwa [hzero, pow_zero, mul_one], hc, by dsimp only; omega⟩

/-- Where ROUND does not saturate it ends on a valid value. -/
theorem validFor_roundFinite {f : Fmt} {c : Nat} {e : Int}
    (h : ¬ ((descriptorTable f).maxBiasedExponent : Int) < biased (descriptorTable f) (roundFinite (descriptorTable f) c e).2) :
    validFor (descriptorTable f) (roundFinite (descriptorTable f) c e).1 (roundFinite (descriptorTable f) c e).2 = true := by
  have hp := coefficientDigits_pos f
  rw [roundFinite] at h ⊢
  obtain ⟨hlt, -, hsame⟩ | ⟨-, hc, hlow, hhigh⟩ := roundExponent_cases hp (roundPrecision_spec hp c e).1 _
  · rw [hsame] at h
    exact absurd hlt h
  · refine validFor_iff.2 ⟨decide_eq_true ⟨hlow, hhigh⟩, decide_eq_true ?_⟩
    rw [maxCoefficient_descriptorTable, ← descriptorTable_coefficientDigits]
    exact Nat.le_sub_one_of_lt hc

/-- ROUND of a finite value is the Infinity of its sign or a valid value (R105 (c)). -/
theorem roundValue_cases (f : Fmt) {v : DecimalValue} (hv : v.kind = .finite) :
    roundValue (descriptorTable f) v = specialValue v.sign .infinity ∨
      ValidValue (descriptorTable f) (roundValue (descriptorTable f) v) := by
  rw [roundValue_of_finite _ hv]
  split
  case isTrue => exact .inl rfl
  case isFalse hle => exact .inr ⟨rfl, validFor_roundFinite hle⟩

theorem roundValue_sign (F : Descriptor) (v : DecimalValue) : (roundValue F v).sign = v.sign := by
  by_cases hv : v.kind = .finite
  · rw [roundValue_of_finite _ hv]
    split <;> rfl
  · rw [roundValue_of_special hv, specialValue]

theorem validValue_of_roundValue_finite {f : Fmt} {v : DecimalValue} (h : (roundValue (descriptorTable f) v).kind = .finite) :
    ValidValue (descriptorTable f) (roundValue (descriptorTable f) v) := by
  by_cases hv : v.kind = .finite
  · obtain hinf | hvalid := roundValue_cases f hv
    · rw [hinf] at h
      cases h
    · exact hvalid
  · rw [roundValue_of_special hv] at h
    exact absurd h hv

/-- Settles O33: what ROUND gives is canonical, and valid where it is finite. -/
theorem roundResultFits : Obligations.RoundResultFits := by
  intro f v hv
  obtain ⟨hval, -, -, bs, henc⟩ :=
    canonical_valid_kept (canonical_roundValue (descriptorTable f) v) validValue_of_roundValue_finite
  refine ⟨_, bs, roundValue_sign _ v, roundValue_cases f hv, fun s hs => ⟨exec_round hs f v, ?_, ?_⟩⟩
  · rw [exec_validate hs, hval]
  · rw [exec_encode hs, henc]

/-! ### Identity on valid values, idempotence (R105 (d)) -/

theorem rescaleFinite_of_inRange {F : Descriptor} {e : Int} (c : Nat) (hlow : 0 ≤ biased F e)
    (hhigh : biased F e ≤ F.maxBiasedExponent) : rescaleFinite F c e = (c, e) := by
  rw [rescaleFinite, if_neg hlow.not_gt, if_neg hhigh.not_gt]

theorem rescaleValue_eq_finiteValue (F : Descriptor) {v : DecimalValue} (h : v.kind = .finite) : rescaleValue F v =
    finiteValue v.sign (rescaleFinite F v.coefficient v.exponent).1 (rescaleFinite F v.coefficient v.exponent).2 := if_pos h

theorem rescaleValue_finiteValue (F : Descriptor) (s : Sign) (c : Nat) (e : Int) :
    rescaleValue F (finiteValue s c e) = finiteValue s (rescaleFinite F c e).1 (rescaleFinite F c e).2 := rfl

theorem roundValue_finiteValue (F : Descriptor) (s : Sign) (c : Nat) (e : Int) : roundValue F (finiteValue s c e) =
    if F.maxBiasedExponent < biased F (roundFinite F c e).2 then specialValue s .infinity
    else finiteValue s (roundFinite F c e).1 (roundFinite F c e).2 := rfl

theorem rescaleValue_rescaleValue (F : Descriptor) (v : DecimalValue) :
    rescaleValue F (rescaleValue F v) = rescaleValue F v := by
  by_cases hv : v.kind = .finite
  · have hfix : rescaleFinite F (rescaleFinite F v.coefficient v.exponent).1 (rescaleFinite F v.coefficient v.exponent).2 =
        rescaleFinite F v.coefficient v.exponent := by
      obtain h | h | h := rescaleFinite_exponent F v.coefficient v.exponent
      · rw [h, h]
      · exact rescaleFinite_of_inRange _ h.ge (by omega)
      · exact rescaleFinite_of_inRange _ (by omega) h.le
    rw [rescaleValue_eq_finiteValue F hv, rescaleValue_finiteValue, hfix]
  · rw [rescaleValue_of_special hv, rescaleValue_of_special (v := specialValue v.sign v.kind) hv]
    rfl

theorem roundValue_roundValue (f : Fmt) (v : DecimalValue) :
    roundValue (descriptorTable f) (roundValue (descriptorTable f) v) = roundValue (descriptorTable f) v := by
  obtain ⟨-, -, hround, -⟩ :=
    canonical_valid_kept (canonical_roundValue (descriptorTable f) v) validValue_of_roundValue_finite
  exact hround

/-- Settles O34: RESCALE ends on a record it leaves, ROUND on a valid value or a special one. -/
theorem fittingIdempotent : Obligations.FittingIdempotent := by
  refine fun f v => ⟨fun h s hs => ⟨?_, ?_⟩, ⟨_, fun s hs => ⟨exec_rescale hs f v, ?_⟩⟩,
    _, fun s hs => ⟨exec_round hs f v, ?_⟩⟩
  · rw [exec_rescale hs, rescaleValue_of_valid h]
  · rw [exec_round hs, roundValue_of_valid h]
  · rw [exec_rescale hs, rescaleValue_rescaleValue]
  · rw [exec_round hs, roundValue_roundValue]

/-! ### ROUND after RESCALE (R105 (e)) -/

/-- Zeros appended are dropped again before anything is rounded. -/
theorem rhe_mul_ten_pow (c d k : Nat) : rhe (c * 10 ^ k) (d + k) = rhe c d := by
  have hpos : 0 < 10 ^ k := by positivity
  obtain rfl | hd := Nat.eq_zero_or_pos d
  · rw [rhe_zero, zero_add]
    obtain rfl | hk := Nat.eq_zero_or_pos k
    · rw [rhe_zero, pow_zero, mul_one]
    · obtain ⟨-, ⟨h, -⟩ | ⟨-, hr⟩⟩ := rhe_down_or_up (c * 10 ^ k) hk
      · rw [h, Nat.mul_div_cancel _ hpos]
      · rw [Nat.mul_mod_left] at hr
        omega
  · have hhalf : 10 ^ (d + k) / 2 = 10 ^ d / 2 * 10 ^ k := by
      rw [pow_add, mul_comm, Nat.mul_div_assoc _ (dvd_pow (by decide : 2 ∣ 10) hd.ne'), mul_comm]
    rw [rhe_eq _ _ hd, rhe_eq _ _ (by omega), roundHalfEven, roundHalfEven, hhalf, pow_add, Nat.mul_div_mul_right _ _ hpos,
      Nat.mul_mod_mul_right]
    simp only [Nat.mul_lt_mul_right hpos, Nat.mul_left_inj hpos.ne']

/-- Where digits are dropped, zeros at the end are the first. -/
theorem roundPrecision_mul_ten_pow {p c : Nat} (hc : 0 < c) (h : p < digits c) (k : Nat) (e : Int) :
    roundPrecision p (c * 10 ^ k) e = roundPrecision p c (e + k) := by
  have hdigits : digits (c * 10 ^ k) - p = digits c - p + k := by rw [digits_mul_ten_pow hc]; omega
  have hexp : e + (digits c - p + k : Nat) = e + k + (digits c - p : Nat) := by push_cast; ring
  unfold roundPrecision
  rw [digits_mul_ten_pow hc, if_pos (by omega), if_pos h]
  dsimp only
  rw [← digits_mul_ten_pow hc, hdigits, rhe_mul_ten_pow, hexp]

theorem roundPrecision_of_le {p c : Nat} (h : digits c ≤ p) (e : Int) : roundPrecision p c e = (c, e) := if_neg h.not_gt

theorem roundExponent_of_inRange {F : Descriptor} {e : Int} (c : Nat) (hlow : 0 ≤ biased F e)
    (hhigh : biased F e ≤ F.maxBiasedExponent) : roundExponent F c e = (c, e) := by
  rw [roundExponent, if_neg hlow.not_gt, if_neg hhigh.not_gt]

/-- R99 of a value whose last `k` digits are zeros, `k` below the least exponent. -/
theorem roundExponent_mul_ten_pow {F : Descriptor} {k : Nat} {e : Int} (hbe : biased F e = -k) (c : Nat) :
    roundExponent F (c * 10 ^ k) e = (c, e + k) := by
  obtain rfl | hk := Nat.eq_zero_or_pos k
  · rw [roundExponent_of_inRange _ (by omega) (by omega), pow_zero, mul_one, Nat.cast_zero, add_zero]
  · have htoNat : (-biased F e).toNat = 0 + k := by omega
    have hmin : minExponent F = e + k := by rw [biased] at hbe; rw [minExponent]; omega
    rw [roundExponent, if_pos (by omega), htoNat, rhe_mul_ten_pow, rhe_zero, hmin]

/-- R98 drops of `k` zeros after at most `p` digits those beyond the `p`-th digit. -/
theorem roundPrecision_mul_ten_pow_of_le {p c : Nat} (hc : 0 < c) (h : digits c ≤ p) (k : Nat) (e : Int) :
    roundPrecision p (c * 10 ^ k) e = (c * 10 ^ (k - (digits c + k - p)), e + (digits c + k - p : Nat)) := by
  have hdigits := digits_mul_ten_pow hc
  obtain hle | hlt := le_or_gt (digits c + k) p
  · rw [roundPrecision_of_le (by rwa [hdigits]), Nat.sub_eq_zero_of_le hle, Nat.sub_zero, Nat.cast_zero, add_zero]
  · obtain ⟨d, hd⟩ := Nat.le.dest hlt.le
    obtain ⟨j, rfl⟩ : ∃ j, k = j + d := ⟨k - d, by omega⟩
    have hsub : digits c + (j + d) - p = d := by omega
    have hkept : rhe (c * 10 ^ (j + d)) d = c * 10 ^ j := by
      have := rhe_mul_ten_pow (c * 10 ^ j) 0 d
      rwa [zero_add, rhe_zero, mul_assoc, ← pow_add] at this
    have hcarry : c * 10 ^ j ≠ 10 ^ p := by
      have := lt_pow_digits (c * 10 ^ j)
      rw [hdigits, (by omega : digits c + j = p)] at this
      exact this.ne
    rw [roundPrecision, hdigits, if_pos hlt, hsub]
    dsimp only
    rw [hkept, if_neg hcarry, Nat.add_sub_cancel]

/-- The `k` zeros between a value and the least exponent: R98 drops some of them, R99 the rest. -/
theorem roundFinite_of_zeros_low {F : Descriptor} (hp : 0 < F.coefficientDigits) {k : Nat} {e : Int} (hbe : biased F e = -k)
    (c : Nat) : roundFinite F (c * 10 ^ k) e = roundFinite F c (e + k) := by
  have hin : roundExponent F c (e + k) = (c, e + k) :=
    roundExponent_of_inRange c (by rw [biased_add]; omega) (by rw [biased_add]; omega)
  rw [roundFinite, roundFinite]
  obtain rfl | hc := Nat.eq_zero_or_pos c
  · have hzero : digits 0 ≤ F.coefficientDigits := by rwa [digits_zero]
    rw [zero_mul, roundPrecision_of_le hzero, roundPrecision_of_le hzero, hin]
    simpa using roundExponent_mul_ten_pow hbe 0
  · obtain hle | hlt := le_or_gt (digits c) F.coefficientDigits
    · rw [roundPrecision_mul_ten_pow_of_le hc hle, roundPrecision_of_le hle, hin,
        roundExponent_mul_ten_pow (by rw [biased_add]; omega), Prod.mk.injEq]
      exact ⟨rfl, by omega⟩
    · rw [roundPrecision_mul_ten_pow hc hlt]

/-- Zeros that fit between the largest exponent and a value: R99 appends them. -/
theorem roundFinite_of_zeros_high {F : Descriptor} (hp : 0 < F.coefficientDigits) {c k : Nat} {e : Int}
    (hbe : biased F e = F.maxBiasedExponent + k) (hk : 0 < k) (hfits : c = 0 ∨ digits c + k ≤ F.coefficientDigits) :
    roundFinite F (c * 10 ^ k) (e - k) = roundFinite F c e := by
  have hle : digits c ≤ F.coefficientDigits ∧ digits (c * 10 ^ k) ≤ F.coefficientDigits := by
    obtain rfl | hc := Nat.eq_zero_or_pos c
    · rw [zero_mul, digits_zero]
      omega
    · rw [digits_mul_ten_pow hc]
      omega
  have hlower : roundExponent F c e = (c * 10 ^ k, e - k) := by
    obtain ⟨j, -, hj, ⟨-, h⟩ | ⟨hwide, -⟩⟩ := lowerExponent_cases (F := F) (e := e) c (by omega)
    · obtain rfl : j = k := by omega
      rw [roundExponent, if_neg (by omega), if_pos (by omega), h]
    · omega
  rw [roundFinite, roundFinite, roundPrecision_of_le hle.1, roundPrecision_of_le hle.2, hlower]
  exact roundExponent_of_inRange _ (by rw [biased_sub]; omega) (by rw [biased_sub]; omega)

theorem roundFinite_rescaleFinite {F : Descriptor} (hp : 0 < F.coefficientDigits) (c : Nat) (e : Int) :
    roundFinite F (rescaleFinite F c e).1 (rescaleFinite F c e).2 = roundFinite F c e := by
  obtain h | ⟨c', k, hbe, rfl, h⟩ | ⟨k, hk, hbe, hfits, h⟩ := rescaleFinite_cases F c e
  · rw [h]
  · rw [h, roundFinite_of_zeros_low hp hbe]
  · rw [h, roundFinite_of_zeros_high hp hbe hk hfits]

theorem roundValue_rescaleValue (f : Fmt) {v : DecimalValue} (hv : v.kind = .finite) :
    roundValue (descriptorTable f) (rescaleValue (descriptorTable f) v) = roundValue (descriptorTable f) v := by
  have hce := roundFinite_rescaleFinite (coefficientDigits_pos f) v.coefficient v.exponent
  rw [rescaleValue_eq_finiteValue _ hv, roundValue_of_finite _ hv, roundValue_finiteValue, hce]

theorem roundValue_eq_of_valid_rescaleValue {f : Fmt} {v : DecimalValue} (hv : v.kind = .finite)
    (h : ValidValue (descriptorTable f) (rescaleValue (descriptorTable f) v)) :
    roundValue (descriptorTable f) v = rescaleValue (descriptorTable f) v := by
  rw [← roundValue_rescaleValue f hv, roundValue_of_valid h]

/-- Settles O35: zeros moved by RESCALE are those ROUND drops or appends. -/
theorem roundAfterRescale : Obligations.RoundAfterRescale := by
  intro f v hv
  refine ⟨_, _, roundValue_eq_of_valid_rescaleValue hv, fun s hs => ⟨exec_rescale hs f v, exec_round hs f v, ?_⟩⟩
  rw [exec_round hs, roundValue_rescaleValue f hv]

/-! ### Where ROUND saturates -/

/-- Half a unit below `m + 1`, against a quotient and a remainder. -/
theorem two_mul_add_one_mul_le_iff {m q r D : Nat} (hr : r < D) :
    (2 * m + 1) * D ≤ 2 * (q * D + r) ↔ m < q ∨ m = q ∧ D ≤ 2 * r := by
  obtain h | rfl | h := lt_trichotomy m q
  · have := Nat.mul_le_mul_right D (Nat.succ_le_of_lt h)
    rw [Nat.succ_mul] at this
    rw [add_mul, mul_assoc]
    omega
  · rw [add_mul, mul_assoc]
    omega
  · have := Nat.mul_le_mul_right D (Nat.succ_le_of_lt h)
    rw [Nat.succ_mul] at this
    rw [add_mul, mul_assoc]
    omega

/-- What rounds to an even number or above is at most half a unit below it: a tie below it goes up. -/
theorem even_le_rhe_iff {n : Nat} (hn : n % 2 = 0) (hpos : 0 < n) (c k : Nat) :
    n ≤ rhe c k ↔ (2 * n - 1) * 10 ^ k ≤ 2 * c := by
  obtain rfl | hk := Nat.eq_zero_or_pos k
  · rw [rhe_zero, pow_zero]
    omega
  · obtain ⟨m, rfl⟩ : ∃ m, n = m + 1 := ⟨n - 1, by omega⟩
    have hodd : 2 * (m + 1) - 1 = 2 * m + 1 := by omega
    have hlt : c % 10 ^ k < 10 ^ k := Nat.mod_lt _ (by positivity)
    have hhalf := two_mul_add_one_mul_le_iff (m := m) (q := c / 10 ^ k) hlt
    rw [Nat.div_add_mod'] at hhalf
    rw [hodd, hhalf]
    obtain ⟨htie, ⟨hq, hr⟩ | ⟨hq, hr⟩⟩ := rhe_down_or_up c hk <;> omega

theorem ten_pow_le_keptDigits {m c : Nat} (h : m + 1 < digits c) :
    10 ^ m ≤ keptDigits (m + 1) c ∧ 10 ^ m * 10 ^ (digits c - (m + 1)) ≤ c := by
  have hd : 0 < digits c - (m + 1) := by omega
  have hc : 0 < c := Nat.pos_of_ne_zero (by rintro rfl; rw [digits_zero] at h; omega)
  have hlow := (digits_bounds hc).2.1
  rw [(by omega : digits c - 1 = m + (digits c - (m + 1))), pow_add] at hlow
  have hdiv := (Nat.le_div_iff_mul_le (by positivity)).2 hlow
  refine ⟨?_, hlow⟩
  obtain ⟨-, ⟨hq, -⟩ | ⟨hq, -⟩⟩ := rhe_down_or_up c hd <;> rw [keptDigits] <;> omega

/-- Whether the number kept by R98 reaches a unit above the largest coefficient, `k` places up. -/
theorem ten_pow_le_keptDigits_iff {p : Nat} (hp : 0 < p) (c k : Nat) :
    10 ^ p ≤ keptDigits p c * 10 ^ k ↔ (2 * 10 ^ p - 1) * 10 ^ (digits c - p) ≤ 2 * (c * 10 ^ k) := by
  have hpow : 0 < 10 ^ p := by positivity
  obtain hd | hd := le_or_gt (digits c) p
  · rw [keptDigits, Nat.sub_eq_zero_of_le hd, rhe_zero, pow_zero]
    omega
  · obtain rfl | hk := Nat.eq_zero_or_pos k
    · have heven : 10 ^ p % 2 = 0 := Nat.mod_eq_zero_of_dvd (dvd_pow (by decide : 2 ∣ 10) hp.ne')
      rw [pow_zero, mul_one, mul_one, keptDigits, even_le_rhe_iff heven hpow]
    · obtain ⟨m, rfl⟩ : ∃ m, p = m + 1 := ⟨p - 1, by omega⟩
      obtain ⟨hkept, hc⟩ := ten_pow_le_keptDigits hd
      have hten : 10 ≤ 10 ^ k := Nat.le_self_pow hk.ne' 10
      refine iff_of_true ?_ ?_
      · calc 10 ^ (m + 1) = 10 ^ m * 10 := pow_succ ..
          _ ≤ keptDigits (m + 1) c * 10 ^ k := Nat.mul_le_mul hkept hten
      · calc (2 * 10 ^ (m + 1) - 1) * 10 ^ (digits c - (m + 1)) ≤ 2 * 10 ^ (m + 1) * 10 ^ (digits c - (m + 1)) :=
              Nat.mul_le_mul_right _ (Nat.sub_le ..)
          _ = 2 * (10 ^ m * 10 ^ (digits c - (m + 1)) * 10) := by ring
          _ ≤ 2 * (c * 10 ^ k) := Nat.mul_le_mul_left _ (Nat.mul_le_mul hc hten)

/-- The same of the numbers denoted. -/
theorem ten_pow_mul_le_keptDigits_iff {p : Nat} (hp : 0 < p) (c : Nat) (e m : Int) :
    (10 : ℚ) ^ p * 10 ^ m ≤ keptDigits p c * 10 ^ (e + (digits c - p : Nat)) ↔
      (10 ^ p - 1 / 2 : ℚ) * 10 ^ m ≤ c * 10 ^ e := by
  have hm : (0 : ℚ) < 10 ^ m := by positivity
  have hd : (0 : ℚ) < 10 ^ (digits c - p) := by positivity
  have hdropped : (10 ^ p - 1 / 2 : ℚ) * 10 ^ m ≤ c * 10 ^ e ↔
      (10 ^ p - 1 / 2 : ℚ) * 10 ^ (digits c - p) * 10 ^ m ≤ c * 10 ^ (e + (digits c - p : Nat)) := by
    rw [zpow_add₀ (by norm_num), zpow_natCast, ← mul_assoc, mul_right_comm, mul_le_mul_iff_of_pos_right hd]
  obtain hle | hlt := le_or_gt m (e + (digits c - p : Nat))
  · obtain ⟨k, hk⟩ := Int.le.dest hle
    have hpow : 1 ≤ 2 * 10 ^ p := Nat.mul_pos (by decide) (by positivity)
    have hnat : (10 : ℚ) ^ p ≤ (keptDigits p c * 10 ^ k : Nat) ↔
        (2 * 10 ^ p - 1 : ℚ) * 10 ^ (digits c - p) ≤ 2 * (c * 10 ^ k : Nat) := by
      have := ten_pow_le_keptDigits_iff hp c k
      rw [← Nat.cast_le (α := ℚ), ← Nat.cast_le (α := ℚ)] at this
      push_cast [Nat.cast_sub hpow] at this ⊢
      exact this
    rw [hdropped, ← hk, ← mul_ten_pow_mul_zpow, ← mul_ten_pow_mul_zpow, mul_le_mul_iff_of_pos_right hm,
      mul_le_mul_iff_of_pos_right hm, hnat]
    constructor <;> intro h <;> linarith
  · have hone : (1 : ℚ) ≤ 10 ^ p := one_le_pow₀ (by norm_num)
    have hten : (10 : ℚ) * 10 ^ (e + (digits c - p : Nat)) ≤ 10 ^ m := by
      rw [← zpow_one_add₀ (by norm_num)]
      exact zpow_le_zpow_right₀ (by norm_num) (by omega)
    have hz : (0 : ℚ) < 10 ^ (e + (digits c - p : Nat)) := by positivity
    have hkept : (keptDigits p c : ℚ) ≤ 10 ^ p := mod_cast keptDigits_le p c
    have hc : (c : ℚ) ≤ 10 ^ p * 10 ^ (digits c - p) := by
      rw [← pow_add]
      exact_mod_cast (lt_pow_digits c).le.trans (Nat.pow_le_pow_right (by decide) (by omega))
    refine iff_of_false (not_le.2 ?_) (hdropped.not.2 (not_le.2 ?_))
    · calc (keptDigits p c : ℚ) * 10 ^ (e + (digits c - p : Nat)) ≤ 10 ^ p * 10 ^ (e + (digits c - p : Nat)) :=
            mul_le_mul_of_nonneg_right hkept (by positivity)
        _ < 10 ^ p * 10 ^ m := mul_lt_mul_of_pos_left (by linarith) (by positivity)
    · have hcoef := mul_le_mul_of_nonneg_right hc hz.le
      have hplace := mul_le_mul_of_nonneg_left hten (by positivity : (0 : ℚ) ≤ 10 ^ p * 10 ^ (digits c - p))
      have hunit := mul_le_mul_of_nonneg_right hone (mul_pos hd hm).le
      linarith [mul_pos hd hm]

/-- The number of R99's result where the exponent is too high for its digits is at least a unit above the largest coefficient. -/
theorem roundExponent_saturates_iff {F : Descriptor} (hp : 0 < F.coefficientDigits) {c : Nat}
    (hc : c < 10 ^ F.coefficientDigits) (e : Int) :
    F.maxBiasedExponent < biased F (roundExponent F c e).2 ↔
      (10 : ℚ) ^ F.coefficientDigits * 10 ^ maxExponent F ≤ c * 10 ^ e := by
  have hle : e ≤ maxExponent F + (biased F e - F.maxBiasedExponent).toNat := by rw [maxExponent, biased]; omega
  have hM : (0 : ℚ) < 10 ^ maxExponent F := by positivity
  obtain ⟨hhigh, hwide, h⟩ | ⟨hlt, -, -, hhigh⟩ := roundExponent_cases hp hc e
  · have he : e = maxExponent F + (biased F e - F.maxBiasedExponent).toNat := by rw [maxExponent, biased] at *; omega
    rw [h]
    refine iff_of_true hhigh ?_
    calc (10 : ℚ) ^ F.coefficientDigits * 10 ^ maxExponent F
        ≤ ((c * 10 ^ (biased F e - F.maxBiasedExponent).toNat : Nat) : ℚ) * 10 ^ maxExponent F :=
          mul_le_mul_of_nonneg_right (mod_cast hwide) hM.le
      _ = c * 10 ^ e := by rw [mul_ten_pow_mul_zpow, ← he]
  · refine iff_of_false hhigh.not_gt (not_le.2 ?_)
    calc (c : ℚ) * 10 ^ e ≤ c * 10 ^ (maxExponent F + (biased F e - F.maxBiasedExponent).toNat) :=
          mul_le_mul_of_nonneg_left (zpow_le_zpow_right₀ (by norm_num) hle) (by positivity)
      _ = ((c * 10 ^ (biased F e - F.maxBiasedExponent).toNat : Nat) : ℚ) * 10 ^ maxExponent F :=
          (mul_ten_pow_mul_zpow ..).symm
      _ < 10 ^ F.coefficientDigits * 10 ^ maxExponent F := mul_lt_mul_of_pos_right (mod_cast hlt) hM

theorem roundValue_eq_infinity_iff {F : Descriptor} (hp : 0 < F.coefficientDigits) {v : DecimalValue} (hv : v.kind = .finite) :
    roundValue F v = specialValue v.sign .infinity ↔
      (10 ^ F.coefficientDigits - 1 / 2 : ℚ) * 10 ^ maxExponent F ≤ |denotes v| := by
  obtain ⟨hlt, hvalue⟩ := roundPrecision_spec hp v.coefficient v.exponent
  have habs : |denotes v| = v.coefficient * 10 ^ v.exponent := by
    rw [denotes_eq, abs_mul, abs_of_nonneg (by positivity : (0 : ℚ) ≤ v.coefficient * 10 ^ v.exponent)]
    split <;> simp
  have hinf : roundValue F v = specialValue v.sign .infinity ↔
      F.maxBiasedExponent < biased F (roundFinite F v.coefficient v.exponent).2 := by
    rw [roundValue_of_finite F hv]
    split
    case isTrue h => exact iff_of_true rfl h
    case isFalse h => exact iff_of_false (fun heq => by simp [finiteValue, specialValue] at heq) h
  rw [hinf, roundFinite, roundExponent_saturates_iff hp hlt, hvalue, ten_pow_mul_le_keptDigits_iff hp, habs]

/-- Settles O36: R99 saturates on what R98 leaves, which reaches a unit above the largest coefficient from half a unit on. -/
theorem roundSaturates : Obligations.RoundSaturates := by
  intro f v hv
  refine ⟨_, fun s hs => exec_round hs f v, ?_⟩
  rw [← descriptorTable_coefficientDigits]
  exact roundValue_eq_infinity_iff (coefficientDigits_pos f) hv

end Sys2Proof.Machine

/-! PROOFS. Bytes and words (20_memory.md R33, R34), the word of a finite value (44_binary_codec.md R117) and the round trips of
DECODE and ENCODE (R122, R123). -/

namespace Sys2Proof.Machine

/-! ### Numerals and their digits -/

/-- A digit of a numeral of radix `m`. -/
theorem foldl_range_digit {m : Nat} {d : Nat → Nat} (hd : ∀ i, d i < m) (a : Nat) {n j : Nat} (hj : j < n) :
    (List.range n).foldl (fun w i => w * m + d i) a / m ^ (n - 1 - j) % m = d j := by
  induction n with
  | zero => omega
  | succ n ih =>
    have hdn := hd n
    rw [List.range_succ, List.foldl_append, List.foldl_cons, List.foldl_nil, Nat.add_sub_cancel]
    obtain rfl | hlt := Nat.eq_or_lt_of_le (Nat.lt_succ_iff.1 hj)
    · rw [Nat.sub_self, pow_zero, Nat.div_one, mul_comm, Nat.mul_add_mod, Nat.mod_eq_of_lt hdn]
    · have hexp : n - j = 1 + (n - 1 - j) := by omega
      rw [hexp, pow_add, pow_one, ← Nat.div_div_eq_div_mul, mul_comm, Nat.mul_add_div (by omega), Nat.div_eq_of_lt hdn,
        add_zero, ih hlt]

/-- A number is the numeral of its digits. -/
theorem foldl_range_div_mod {m : Nat} (x n : Nat) {j : Nat} (hj : j ≤ n) :
    (List.range j).foldl (fun w i => w * m + x / m ^ (n - 1 - i) % m) (x / m ^ n) = x / m ^ (n - j) := by
  induction j with
  | zero => rfl
  | succ j ih =>
    have hexp : n - j = n - 1 - j + 1 := by omega
    have hexp' : n - (j + 1) = n - 1 - j := by omega
    rw [List.range_succ, List.foldl_append, ih (by omega), List.foldl_cons, List.foldl_nil, hexp, hexp', pow_succ,
      ← Nat.div_div_eq_div_mul, Nat.div_add_mod']

theorem foldl_congr_range {d d' : Nat → Nat} {m n : Nat} (h : ∀ i, i < n → d i = d' i) (a : Nat) :
    (List.range n).foldl (fun w i => w * m + d i) a = (List.range n).foldl (fun w i => w * m + d' i) a := by
  refine List.foldl_ext _ _ _ fun w i hi => ?_
  rw [h i (List.mem_range.1 hi)]

/-! ### The bytes of a word (20_memory.md R33) -/

/-- A word is the numeral of its bytes. -/
theorem wordOf_eq_foldl_range {n : Nat} (hn : n ≤ 16) (bs : ByteString) :
    wordOf n bs = (List.range n).foldl (fun w i => w * 256 + (bs.data.toList.getD i 0).toNat) 0 := by
  have htake : bs.data.toList.take n = (List.range n).map fun i => bs.data.toList.getD i 0 :=
    List.ext_getElem (by simp [hn]) fun i hi hi' => by
      simp only [List.length_map, List.length_range] at hi'
      simp [List.getD, (by omega : i < 16)]
  rw [wordOf, htake, List.foldl_map]

theorem wordOf_lt {n : Nat} (hn : n ≤ 16) (bs : ByteString) : wordOf n bs < 2 ^ (8 * n) := by
  have h := (foldl_radix_bounds (fun b : Byte => b.isLt) (bs.data.toList.take n) 0).2
  rw [zero_add, one_mul, List.length_take, Vector.length_toList, min_eq_left hn] at h
  rw [pow_mul]
  exact h

/-- Settles O38: a stream bit is a bit of its byte, and the byte a digit of the word. -/
theorem streamBitsOfWord : Obligations.StreamBitsOfWord := by
  intro bs n k hn hk
  have hbyte : wordOf n bs / 2 ^ (8 * (n - 1 - k / 8)) % 2 ^ 8 = (bs.data.toList.getD (k / 8) 0).toNat := by
    rw [wordOf_eq_foldl_range hn, pow_mul]
    exact foldl_range_digit (m := 256) (fun i => BitVec.isLt _) 0 (by omega)
  have hbit : 8 * n - 1 - k = 7 - k % 8 + 8 * (n - 1 - k / 8) := by omega
  rw [streamBit, BitVec.getLsbD, ← hbyte, hbit, Nat.testBit_mod_two_pow, Nat.testBit_div_two_pow,
    decide_eq_true (by omega : 7 - k % 8 < 8), Bool.true_and]

/-- The word of the bytes made of a word. -/
theorem wordOf_bytesOf {n W : Nat} (hn : n ≤ 16) (hW : W < 2 ^ (8 * n)) : wordOf n (bytesOf n W) = W := by
  have hzero : W / 256 ^ n = 0 := by
    rw [pow_mul] at hW
    exact Nat.div_eq_of_lt hW
  have hbyte (i : Nat) (hi : i < n) : ((bytesOf n W).data.toList.getD i 0).toNat = W / 256 ^ (n - 1 - i) % 256 := by
    have hdata := bytesOf_data n W (i := i) (by omega)
    rw [if_pos hi, pow_mul] at hdata
    simp [List.getD, (by omega : i < 16), hdata]
  rw [wordOf_eq_foldl_range hn, foldl_congr_range hbyte, ← hzero, foldl_range_div_mod W n le_rfl, Nat.sub_self, pow_zero,
    Nat.div_one]

/-! ### The fields of a word put together (30_encoding.md R50, 44_binary_codec.md R117) -/

/-- The sub-layout of R52 as a number. -/
theorem joinCombination_toNat {em msd : Nat} (hem : em ≤ 2) (hmsd : msd ≤ 9) :
    (joinCombination em msd).toNat = if msd < 8 then em * 8 + msd else 24 + em * 2 + msd % 2 := by
  interval_cases em <;> interval_cases msd <;> rfl

theorem splitCombination_joinCombination {em msd : Nat} (hem : em ≤ 2) (hmsd : msd ≤ 9) :
    (joinCombination em msd).toNat < 30 ∧ splitCombination (joinCombination em msd) = (em, msd) := by
  rw [splitCombination_eq, joinCombination_toNat hem hmsd, Prod.mk.injEq]
  split <;> split_ifs <;> omega

theorem joinCombination_splitCombination {G : BitVec 5} (h : G.toNat < 30) :
    joinCombination (splitCombination G).1 (splitCombination G).2 = G := by
  decide +revert

section JoinWord
variable (f : Fmt) (s : Sign) (G : BitVec 5) {x cc : Nat}
  (hx : x < 2 ^ (descriptorTable f).exponentContinuationBits)
  (hcc : cc < 2 ^ (descriptorTable f).coefficientContinuationBits)
include hcc

theorem joinWord_div : joinWord (descriptorTable f) s G x cc / 2 ^ (descriptorTable f).coefficientContinuationBits =
    (s.code.toNat * 2 ^ 5 + G.toNat) * 2 ^ (descriptorTable f).exponentContinuationBits + x := by
  rw [joinWord, mul_comm _ (2 ^ (descriptorTable f).coefficientContinuationBits), Nat.mul_add_div (by positivity),
    Nat.div_eq_of_lt hcc, add_zero]

theorem joinWord_mod : joinWord (descriptorTable f) s G x cc % 2 ^ (descriptorTable f).coefficientContinuationBits = cc := by
  rw [joinWord, mul_comm _ (2 ^ (descriptorTable f).coefficientContinuationBits), Nat.mul_add_mod, Nat.mod_eq_of_lt hcc]

include hx

theorem joinWord_div_top : joinWord (descriptorTable f) s G x cc / 2 ^ (f.totalBits - 6) = s.code.toNat * 2 ^ 5 + G.toNat := by
  have hexp : f.totalBits - 6 =
      (descriptorTable f).coefficientContinuationBits + (descriptorTable f).exponentContinuationBits := by
    have := totalBits_eq f
    omega
  rw [hexp, pow_add, ← Nat.div_div_eq_div_mul, joinWord_div f s G hcc,
    mul_comm _ (2 ^ (descriptorTable f).exponentContinuationBits), Nat.mul_add_div (by positivity), Nat.div_eq_of_lt hx,
    add_zero]

theorem joinWord_lt : joinWord (descriptorTable f) s G x cc < 2 ^ f.totalBits := by
  have htop := joinWord_div_top f s G hx hcc
  have hexp : f.totalBits = 6 + (f.totalBits - 6) := by cases f <;> rfl
  have hs := s.code.isLt
  have hG := G.isLt
  rw [hexp, pow_add]
  refine Nat.lt_mul_of_div_lt ?_ (by positivity)
  omega

theorem wordSign_joinWord : wordSign (descriptorTable f) (joinWord (descriptorTable f) s G x cc) = s := by
  have htop := joinWord_div_top f s G hx hcc
  have hexp : f.totalBits - 1 = f.totalBits - 6 + 5 := by cases f <;> rfl
  have hG := G.isLt
  rw [wordSign_eq, hexp, pow_add, ← Nat.div_div_eq_div_mul, htop]
  have hdiv : (s.code.toNat * 2 ^ 5 + G.toNat) / 2 ^ 5 = s.code.toNat := by omega
  rw [hdiv]
  cases s <;> rfl

theorem wordCombination_joinWord : wordCombination (descriptorTable f) (joinWord (descriptorTable f) s G x cc) = G := by
  have hG := G.isLt
  apply BitVec.eq_of_toNat_eq
  rw [wordCombination_toNat, joinWord_div_top f s G hx hcc]
  omega

theorem wordExponent_joinWord : wordExponent (descriptorTable f) (joinWord (descriptorTable f) s G x cc) = x := by
  rw [wordExponent_eq, joinWord_div f s G hcc, mul_comm, Nat.mul_add_mod, Nat.mod_eq_of_lt hx]

omit hx in
theorem wordCoefficient_joinWord : wordCoefficient (descriptorTable f) (joinWord (descriptorTable f) s G x cc) = cc := by
  rw [wordCoefficient_eq, ← descriptorTable_coefficientContinuationBits, joinWord_mod f s G hcc]

theorem decodeFinite_joinWord (rom : Vector Triplet 1024) :
    decodeFinite (descriptorTable f) rom (joinWord (descriptorTable f) s G x cc) =
      finiteValue s (coefDec (descriptorTable f) rom (splitCombination G).2 cc)
        (((splitCombination G).1 * 2 ^ (descriptorTable f).exponentContinuationBits + x : Nat) -
          ((descriptorTable f).exponentBias : Int)) := by
  rw [decodeFinite, wordSign_joinWord f s G hx hcc, wordCombination_joinWord f s G hx hcc, wordExponent_joinWord f s G hx hcc,
    wordCoefficient_joinWord f s G hcc]

end JoinWord

theorem signCode_toNat (s : Sign) : s.code.toNat = if s = .negative then 1 else 0 := by cases s <;> rfl

/-- The sign of a word is its top bit. -/
theorem wordSign_code {f : Fmt} {W : Nat} (hW : W < 2 ^ f.totalBits) :
    (wordSign (descriptorTable f) W).code.toNat = W / 2 ^ (f.totalBits - 1) := by
  have hexp : f.totalBits = f.totalBits - 1 + 1 := by cases f <;> rfl
  have hlt : W / 2 ^ (f.totalBits - 1) < 2 := by
    rw [hexp, pow_succ] at hW
    exact Nat.div_lt_of_lt_mul hW
  rw [wordSign_eq, signCode_toNat, Nat.mod_eq_of_lt hlt]
  obtain h | h := Nat.lt_succ_iff_lt_or_eq.1 hlt
  · rw [Nat.lt_one_iff.1 h]
    rfl
  · rw [h]
    rfl

/-- The first six bits of a word. -/
theorem word_div_top_eq {f : Fmt} {W : Nat} (hW : W < 2 ^ f.totalBits) :
    W / 2 ^ (f.totalBits - 6) =
      (wordSign (descriptorTable f) W).code.toNat * 2 ^ 5 + (wordCombination (descriptorTable f) W).toNat := by
  have hexp : f.totalBits - 1 = f.totalBits - 6 + 5 := by cases f <;> rfl
  rw [wordSign_code hW, wordCombination_toNat, hexp, pow_add, ← Nat.div_div_eq_div_mul]
  exact (Nat.div_add_mod' ..).symm

/-- The fields of a word above its coefficient continuation, put together. -/
theorem word_div_eq {f : Fmt} {W : Nat} (hW : W < 2 ^ f.totalBits) :
    W / 2 ^ (descriptorTable f).coefficientContinuationBits =
      ((wordSign (descriptorTable f) W).code.toNat * 2 ^ 5 + (wordCombination (descriptorTable f) W).toNat) *
        2 ^ (descriptorTable f).exponentContinuationBits + wordExponent (descriptorTable f) W := by
  have hexp : f.totalBits - 6 =
      (descriptorTable f).coefficientContinuationBits + (descriptorTable f).exponentContinuationBits := by
    have := totalBits_eq f
    omega
  rw [← word_div_top_eq hW, hexp, pow_add, ← Nat.div_div_eq_div_mul, wordExponent_eq, Nat.div_add_mod']

/-! ### The digits of a coefficient and its groups (30_encoding.md R55, 40_dpd_codec.md R72, R73) -/

@[simp] theorem digitField_toNat (c i : Nat) : (digitField c i).toNat = digit c i := by
  have : digit c i < 10 := Nat.mod_lt _ (by decide)
  rw [digitField, BitVec.toNat_ofNat, Nat.mod_eq_of_lt (by omega)]

theorem digitField_le_nine (c i : Nat) : (digitField c i).toNat ≤ 9 := by
  have : digit c i < 10 := Nat.mod_lt _ (by decide)
  rw [digitField_toNat]
  omega

/-- The digits of weights `10^(3q+2)`, `10^(3q+1)`, `10^(3q)`. -/
def digitsAt (c q : Nat) : Triplet :=
  { d0 := digitField c (3 * q + 2), d1 := digitField c (3 * q + 1), d2 := digitField c (3 * q) }

/-- A decimal digit from a digit of radix 1000. -/
theorem digit_eq (c q r : Nat) : digit c (3 * q + r) = c / 1000 ^ q / 10 ^ r % 10 := by
  rw [digit, pow_add, pow_mul, Nat.div_div_eq_div_mul]
  rfl

theorem digitsAt_toNat (c q : Nat) : (digitsAt c q).d0.toNat = c / 1000 ^ q % 1000 / 100 ∧
    (digitsAt c q).d1.toNat = c / 1000 ^ q % 1000 / 10 % 10 ∧ (digitsAt c q).d2.toNat = c / 1000 ^ q % 1000 % 10 := by
  have h0 := digit_eq c q 0
  rw [add_zero, pow_zero, Nat.div_one] at h0
  simp only [digitsAt, digitField_toNat, digit_eq, h0]
  omega

theorem tripletValue_digitsAt (c q : Nat) : tripletValue (digitsAt c q) = c / 1000 ^ q % 1000 := by
  obtain ⟨h0, h1, h2⟩ := digitsAt_toNat c q
  rw [tripletValue, h0, h1, h2]
  omega

/-- Three digits are determined by their value. -/
theorem digitsAt_of_tripletValue {c q : Nat} {t : Triplet} (h1 : t.d1.toNat ≤ 9) (h2 : t.d2.toNat ≤ 9)
    (h : c / 1000 ^ q % 1000 = tripletValue t) : digitsAt c q = t := by
  obtain ⟨hd0, hd1, hd2⟩ := digitsAt_toNat c q
  rw [h, tripletValue] at hd0 hd1 hd2
  have hext : ∀ t' : Triplet, t'.d0 = t.d0 → t'.d1 = t.d1 → t'.d2 = t.d2 → t' = t := by
    rintro ⟨_, _, _⟩ rfl rfl rfl
    rfl
  exact hext _ (BitVec.eq_of_toNat_eq (by omega)) (BitVec.eq_of_toNat_eq (by omega)) (BitVec.eq_of_toNat_eq (by omega))

theorem groupOfDigits_eq (f : Fmt) (c : Nat) {j : Nat} (hj : j < groupTable f) :
    groupOfDigits (descriptorTable f).coefficientDigits c j =
      dpdEnc (digitsAt c (groupTable f - 1 - j)).d0 (digitsAt c (groupTable f - 1 - j)).d1
        (digitsAt c (groupTable f - 1 - j)).d2 := by
  have hp := coefficientDigits_eq f
  rw [groupOfDigits, descriptorTable_coefficientDigits, digitsAt]
  congr 2 <;> omega

theorem coefEnc_snd_lt (f : Fmt) (c : Nat) :
    (coefEnc (descriptorTable f) c).2 < 2 ^ (descriptorTable f).coefficientContinuationBits := by
  have h := (foldl_radix_bounds (fun j => (groupOfDigits (descriptorTable f).coefficientDigits c j).isLt)
    (List.range (groupTable f)) 0).2
  rw [zero_add, one_mul, List.length_range] at h
  rw [coefEnc, groupCount_descriptorTable, descriptorTable_coefficientContinuationBits, pow_mul]
  exact h

/-- The groups of the coefficient continuation ENCODE makes. -/
theorem groupAt_coefEnc (f : Fmt) (c : Nat) {j : Nat} (hj : j < groupTable f) :
    groupAt (groupTable f) (coefEnc (descriptorTable f) c).2 j = groupOfDigits (descriptorTable f).coefficientDigits c j := by
  have hlt := coefEnc_snd_lt f c
  rw [descriptorTable_coefficientContinuationBits] at hlt
  rw [← Nat.mod_eq_of_lt hlt, groupAt_mod_two_pow hj, groupOfWord, pow_mul]
  apply BitVec.eq_of_toNat_eq
  rw [BitVec.toNat_ofNat, coefEnc, groupCount_descriptorTable]
  exact foldl_range_digit (m := 1024) (fun j => BitVec.isLt _) 0 hj

/-- The weight of the most significant digit. -/
theorem ten_pow_coefficientDigits_sub_one (f : Fmt) : 10 ^ (f.coefficientDigits - 1) = 1000 ^ groupTable f := by
  rw [coefficientDigits_eq, Nat.add_sub_cancel, pow_mul]
  rfl

/-- The most significant digit of a coefficient of a format. -/
theorem coefEnc_fst {f : Fmt} {c : Nat} (hc : c < 10 ^ f.coefficientDigits) :
    (coefEnc (descriptorTable f) c).1 = c / 1000 ^ groupTable f ∧ c / 1000 ^ groupTable f ≤ 9 := by
  have hlt : c / 1000 ^ groupTable f < 10 := by
    rw [coefficientDigits_eq, pow_succ, pow_mul] at hc
    exact Nat.div_lt_of_lt_mul hc
  refine ⟨?_, by omega⟩
  rw [coefEnc, descriptorTable_coefficientDigits, digit, ten_pow_coefficientDigits_sub_one]
  exact Nat.mod_eq_of_lt hlt

/-- `CoefDec` undoes `CoefEnc`. -/
theorem coefDec_coefEnc {f : Fmt} {c : Nat} (hc : c < 10 ^ f.coefficientDigits) :
    coefDec (descriptorTable f) romDpdContents (coefEnc (descriptorTable f) c).1 (coefEnc (descriptorTable f) c).2 = c := by
  have hgroup (j : Nat) (hj : j < groupTable f) :
      tripletValue (romRead romDpdContents (groupAt (groupTable f) (coefEnc (descriptorTable f) c).2 j)) =
        c / 1000 ^ (groupTable f - 1 - j) % 1000 := by
    have hdec := dpdDec_dpdEnc (digitField_le_nine c (3 * (groupTable f - 1 - j) + 2))
      (digitField_le_nine c (3 * (groupTable f - 1 - j) + 1)) (digitField_le_nine c (3 * (groupTable f - 1 - j)))
    rw [romRead_contents, groupAt_coefEnc f c hj, groupOfDigits_eq f c hj]
    exact (congrArg tripletValue hdec).trans (tripletValue_digitsAt c _)
  rw [coefDec, groupCount_descriptorTable, foldl_congr_range hgroup, (coefEnc_fst hc).1, foldl_range_div_mod _ _ le_rfl,
    Nat.sub_self, pow_zero, Nat.div_one]

/-! ### ENCODE of valid finite values (44_binary_codec.md R117) -/

theorem encodeFinite_lt (f : Fmt) (s : Sign) (c : Nat) (e : Int) : encodeFinite (descriptorTable f) s c e < 2 ^ f.totalBits :=
  joinWord_lt f _ _ (Nat.mod_lt _ (by positivity)) (coefEnc_snd_lt f _)

section Valid
variable {f : Fmt} {v : DecimalValue} (h : ValidValue (descriptorTable f) v)
include h

theorem coefficient_lt_of_valid : v.coefficient < 10 ^ f.coefficientDigits := by
  have hc := of_decide_eq_true (validFor_iff.1 h.2).2
  have hpow : 0 < 10 ^ f.coefficientDigits := by positivity
  rw [maxCoefficient_descriptorTable] at hc
  omega

/-- The biased exponent of a valid value is below `3 * 2^E`, so its top bits are at most 2. -/
theorem exponentTop_le_of_valid :
    (biased (descriptorTable f) v.exponent).toNat / 2 ^ (descriptorTable f).exponentContinuationBits ≤ 2 := by
  have he := of_decide_eq_true (validFor_iff.1 h.2).1
  have hmax := descriptorTable_maxBiasedExponent f
  have hlt : (biased (descriptorTable f) v.exponent).toNat < 2 ^ (descriptorTable f).exponentContinuationBits * 3 := by omega
  have := Nat.div_lt_of_lt_mul hlt
  omega

theorem decodeWord_encodeFinite :
    decodeWord (descriptorTable f) romDpdContents (encodeFinite (descriptorTable f) v.sign v.coefficient v.exponent) = v := by
  have hc := coefficient_lt_of_valid h
  obtain ⟨hmsd, hle⟩ := coefEnc_fst hc
  obtain ⟨hlt, hsplit⟩ := splitCombination_joinCombination (exponentTop_le_of_valid h) (hmsd.trans_le hle)
  have hx : (biased (descriptorTable f) v.exponent).toNat % 2 ^ (descriptorTable f).exponentContinuationBits <
      2 ^ (descriptorTable f).exponentContinuationBits := Nat.mod_lt _ (by positivity)
  have hcc := coefEnc_snd_lt f v.coefficient
  obtain ⟨hlow, -⟩ := of_decide_eq_true (validFor_iff.1 h.2).1
  have he : ((biased (descriptorTable f) v.exponent).toNat : Int) - (descriptorTable f).exponentBias = v.exponent := by
    rw [biased] at hlow ⊢
    omega
  rw [encodeFinite, decodeWord_of_lt _ (by rwa [wordCombination_joinWord f _ _ hx hcc]), decodeFinite_joinWord f _ _ hx hcc,
    hsplit, Nat.div_add_mod', coefDec_coefEnc hc, he, finiteValue_eq_with h.1]

end Valid

/-- The bytes ENCODE makes of a valid value hold the word. -/
theorem wordOf_bytesOf_of_lt {f : Fmt} {W : Nat} (hW : W < 2 ^ f.totalBits) :
    wordOf (f.totalBits / 8) (bytesOf (f.totalBits / 8) W) = W := by
  rw [totalBits_eq_bytes] at hW
  exact wordOf_bytesOf (byteLength_bounds f).2 hW

theorem joinWord_eq (f : Fmt) (s : Sign) (G : BitVec 5) (x cc : Nat) : joinWord (descriptorTable f) s G x cc =
    (if s = .negative then 2 ^ (f.totalBits - 1) else 0) + G.toNat * 2 ^ (f.totalBits - 6) +
      x * 2 ^ (descriptorTable f).coefficientContinuationBits + cc := by
  have htop : f.totalBits - 6 =
      (descriptorTable f).exponentContinuationBits + (descriptorTable f).coefficientContinuationBits := by
    have := totalBits_eq f
    omega
  have hsign : f.totalBits - 1 = 5 + (f.totalBits - 6) := by cases f <;> rfl
  have hcode : (if s = .negative then 2 ^ (f.totalBits - 1) else 0) = s.code.toNat * 2 ^ (f.totalBits - 1) := by
    rw [signCode_toNat, ite_mul, one_mul, zero_mul]
  rw [hcode, hsign, htop, joinWord]
  ring

/-- The coefficient continuation as a sum of groups by weight. -/
theorem coefEnc_snd_eq (f : Fmt) (c : Nat) : (coefEnc (descriptorTable f) c).2 =
    ∑ j ∈ Finset.range (groupTable f),
      (groupOfDigits f.coefficientDigits c j).toNat * 2 ^ (10 * (groupTable f - 1 - j)) := by
  rw [coefEnc, groupCount_descriptorTable, foldl_range_radix, zero_mul, zero_add, descriptorTable_coefficientDigits]
  simp only [pow_mul]
  rfl

/-- Settles O45: the bytes hold the word, and its fields by weight are the sum. -/
theorem encodeFiniteResult : Obligations.EncodeFiniteResult := by
  intro f v h F p n be em msd
  refine ⟨bytesOf (f.totalBits / 8) (encodeFinite F v.sign v.coefficient v.exponent), fun s hs => ?_, ?_,
    fun i hi hle => ?_, ?_⟩
  · rw [exec_encode hs, encodeResponse_of_valid h, descriptorTable_byteLength]
  · cases f <;> rfl
  · rw [bytesOf_data _ _ hi, if_neg (by omega)]
  · have hmsd : (coefEnc F v.coefficient).1 = msd ∧ msd ≤ 9 := by
      have := coefEnc_fst (coefficient_lt_of_valid h)
      rwa [← ten_pow_coefficientDigits_sub_one] at this
    have hG := joinCombination_toNat (exponentTop_le_of_valid h) hmsd.2
    rw [wordOf_bytesOf_of_lt (encodeFinite_lt ..), encodeFinite, joinWord_eq, hmsd.1, hG, coefEnc_snd_eq,
      descriptorTable_totalBits]
    rfl

/-! ### The round trips (44_binary_codec.md R122) -/

/-- Sign and tag are the first seven bits of a special word. -/
theorem encodeSpecial_div (f : Fmt) (s : Sign) (k : Kind) {j : Nat} (hj : j ≤ 7) :
    encodeSpecial (descriptorTable f) s k / 2 ^ (f.totalBits - j) = (s.code.toNat * 2 ^ 6 + specialTag k) / 2 ^ (7 - j) := by
  have hexp : f.totalBits - j = f.totalBits - 7 + (7 - j) := by have := totalBits_eq_bytes f; have := byteLength_bounds f; omega
  rw [encodeSpecial, descriptorTable_totalBits, hexp, pow_add, ← Nat.div_div_eq_div_mul, Nat.mul_div_cancel _ (by positivity)]

theorem encodeSpecial_lt (f : Fmt) (s : Sign) (k : Kind) : encodeSpecial (descriptorTable f) s k < 2 ^ f.totalBits := by
  have hexp : f.totalBits = 7 + (f.totalBits - 7) := by cases f <;> rfl
  have htag : s.code.toNat * 2 ^ 6 + specialTag k < 2 ^ 7 := by cases s <;> cases k <;> decide
  rw [encodeSpecial, descriptorTable_totalBits]
  conv_rhs => rw [hexp, pow_add]
  exact Nat.mul_lt_mul_of_pos_right htag (by positivity)

theorem decodeWord_encodeSpecial (f : Fmt) (rom : Vector Triplet 1024) (s : Sign) {k : Kind} (hk : k ≠ .finite) :
    decodeWord (descriptorTable f) rom (encodeSpecial (descriptorTable f) s k) = specialValue s k := by
  have hsign : wordSign (descriptorTable f) (encodeSpecial (descriptorTable f) s k) = s := by
    rw [wordSign_eq, encodeSpecial_div f s k (by decide)]
    cases s <;> cases k <;> rfl
  have hG : (wordCombination (descriptorTable f) (encodeSpecial (descriptorTable f) s k)).toNat = specialTag k / 2 := by
    rw [wordCombination_toNat, encodeSpecial_div f s k (by decide)]
    cases s <;> cases k <;> rfl
  have h6 : wordBit6 (descriptorTable f) (encodeSpecial (descriptorTable f) s k) = specialTag k % 2 := by
    rw [wordBit6_eq, encodeSpecial_div f s k (by decide)]
    cases s <;> cases k <;> rfl
  cases k with
  | finite => exact absurd rfl hk
  | infinity => rw [decodeWord_of_infinity _ (BitVec.eq_of_toNat_eq hG), hsign]
  | nan => rw [decodeWord_of_nan _ (BitVec.eq_of_toNat_eq hG) h6, hsign]
  | signalingNan => rw [decodeWord_of_signalingNan _ (BitVec.eq_of_toNat_eq hG) (by rw [h6]; decide), hsign]

/-- ENCODE completes on these values, with the bytes of a word that decodes to the value. -/
theorem exists_encode_decode {f : Fmt} {v : DecimalValue} (hcanon : Canonical v)
    (hvalid : v.kind = .finite → ValidValue (descriptorTable f) v) :
    ∃ W < 2 ^ f.totalBits, encodeResponse (descriptorTable f) v = .bytes (bytesOf (f.totalBits / 8) W) ∧
      decodeWord (descriptorTable f) romDpdContents W = v := by
  by_cases hv : v.kind = .finite
  · refine ⟨_, encodeFinite_lt f v.sign v.coefficient v.exponent, ?_, decodeWord_encodeFinite (hvalid hv)⟩
    rw [encodeResponse_of_valid (hvalid hv), descriptorTable_byteLength]
  · refine ⟨_, encodeSpecial_lt f v.sign v.kind, ?_, ?_⟩
    · rw [encodeResponse_of_special hv, descriptorTable_byteLength]
    · rw [decodeWord_encodeSpecial f _ _ hv, ← hcanon.eq_specialValue hv]

theorem exec_encode_decode {f : Fmt} {v : DecimalValue} (hcanon : Canonical v)
    (hvalid : v.kind = .finite → ValidValue (descriptorTable f) v) :
    ∃ bs, ∀ s : State, s.TablesReady →
      exec (.encode f v) s = .next (s.deliver (.bytes bs)) ∧ exec (.decode f bs) s = .next (s.deliver (.value v)) := by
  obtain ⟨W, hW, henc, hdec⟩ := exists_encode_decode hcanon hvalid
  refine ⟨_, fun s hs => ⟨by rw [exec_encode hs, henc], ?_⟩⟩
  rw [exec_decode hs (byteLength_of_encode henc), wordOf_bytesOf_of_lt hW, hdec]

/-- Settles O46: the word ENCODE makes decodes field by field to what it was made of. -/
theorem decodeAfterEncode : Obligations.DecodeAfterEncode :=
  fun _ _ hcanon h => exec_encode_decode hcanon fun hv => h.resolve_left (not_not.2 hv)

/-- Settles O47: what DECODE gives is a value O46 speaks of. -/
theorem decodeEncodeDecode : Obligations.DecodeEncodeDecode := by
  intro f bs hlen
  obtain ⟨bs', h⟩ := exec_encode_decode
    (canonical_decodeWord (descriptorTable f) romDpdContents (wordOf (f.totalBits / 8) bs)) validValue_decodeWord
  exact ⟨_, bs', fun s hs => ⟨exec_decode hs hlen, h s hs⟩⟩

/-! ### ENCODE of DECODE (44_binary_codec.md R123) -/

/-- The digits of a coefficient DECODE assembles are those of the word's fields. -/
theorem coefDec_digits (f : Fmt) {msd : Nat} (hmsd : msd ≤ 9) (W : Nat) :
    (coefEnc (descriptorTable f)
        (coefDec (descriptorTable f) romDpdContents msd (wordCoefficient (descriptorTable f) W))).1 = msd ∧
      ∀ j, j < groupTable f →
        digitsAt (coefDec (descriptorTable f) romDpdContents msd (wordCoefficient (descriptorTable f) W)) (groupTable f - 1 - j) =
          dpdDec (groupOfWord (groupTable f) W j) := by
  have hd (i : Nat) : tripletValue (romRead romDpdContents
      (groupAt (groupTable f) (wordCoefficient (descriptorTable f) W) i)) < 1000 := by
    rw [romRead_contents]
    exact tripletValue_dpdDec_lt _
  refine ⟨?_, fun j hj => ?_⟩
  · rw [(coefEnc_fst (coefDec_lt f hmsd _)).1, coefDec, groupCount_descriptorTable]
    obtain ⟨hlow, hhigh⟩ := foldl_radix_bounds hd (List.range (groupTable f)) msd
    rw [List.length_range] at hlow hhigh
    exact Nat.div_eq_of_lt_le hlow hhigh
  · obtain ⟨-, h1, h2⟩ := dpdDec_le_nine (groupOfWord (groupTable f) W j)
    refine digitsAt_of_tripletValue h1 h2 ?_
    rw [coefDec, groupCount_descriptorTable, foldl_range_digit hd _ hj, romRead_contents, wordCoefficient_eq,
      groupAt_mod_two_pow hj]

/-- Re-encoding a finite word: its own sign, combination field and exponent bits, over the groups of its coefficient. -/
theorem encodeFinite_decodeFinite {f : Fmt} {W : Nat} (hG : (wordCombination (descriptorTable f) W).toNat < 30)
    {v : DecimalValue} (hv : decodeFinite (descriptorTable f) romDpdContents W = v) :
    encodeFinite (descriptorTable f) v.sign v.coefficient v.exponent =
      joinWord (descriptorTable f) (wordSign (descriptorTable f) W) (wordCombination (descriptorTable f) W)
        (wordExponent (descriptorTable f) W) (coefEnc (descriptorTable f) v.coefficient).2 := by
  have hx := wordExponent_lt f W
  have hmsd := (coefDec_digits f (splitCombination_le hG).2 W).1
  have hbe : (biased (descriptorTable f) v.exponent).toNat =
      (splitCombination (wordCombination (descriptorTable f) W)).1 * 2 ^ (descriptorTable f).exponentContinuationBits +
        wordExponent (descriptorTable f) W := by
    rw [← hv]
    simp only [decodeFinite, finiteValue, biased, sub_add_cancel, Int.toNat_natCast]
  have hdiv : (biased (descriptorTable f) v.exponent).toNat / 2 ^ (descriptorTable f).exponentContinuationBits =
      (splitCombination (wordCombination (descriptorTable f) W)).1 := by
    rw [hbe, mul_comm, Nat.mul_add_div (by positivity), Nat.div_eq_of_lt hx, add_zero]
  have hmod : (biased (descriptorTable f) v.exponent).toNat % 2 ^ (descriptorTable f).exponentContinuationBits =
      wordExponent (descriptorTable f) W := by
    rw [hbe, mul_comm, Nat.mul_add_mod, Nat.mod_eq_of_lt hx]
  rw [encodeFinite, hdiv, hmod, ← hv]
  dsimp only [decodeFinite, finiteValue]
  rw [hmsd, joinCombination_splitCombination hG]

/-- The groups of a re-encoded word are the canonical codes of the word's groups. -/
theorem groupOfDigits_decodeFinite {f : Fmt} {W : Nat} (hG : (wordCombination (descriptorTable f) W).toNat < 30)
    {j : Nat} (hj : j < groupTable f) :
    groupOfDigits (descriptorTable f).coefficientDigits (decodeFinite (descriptorTable f) romDpdContents W).coefficient j =
      canonicalGroup (groupOfWord (groupTable f) W j) := by
  rw [groupOfDigits_eq f _ hj, ← dpdEnc_dpdDec, ← (coefDec_digits f (splitCombination_le hG).2 W).2 j hj]
  rfl

/-- A finite word re-encoded: the bits above the coefficient continuation stay, the groups become canonical. -/
theorem encodeFinite_canonical {f : Fmt} {W : Nat} (hW : W < 2 ^ f.totalBits)
    (hG : (wordCombination (descriptorTable f) W).toNat < 30) {v : DecimalValue}
    (hv : decodeFinite (descriptorTable f) romDpdContents W = v) :
    encodeFinite (descriptorTable f) v.sign v.coefficient v.exponent / 2 ^ (descriptorTable f).coefficientContinuationBits =
        W / 2 ^ (descriptorTable f).coefficientContinuationBits ∧
      ∀ j, j < groupTable f →
        groupOfWord (groupTable f) (encodeFinite (descriptorTable f) v.sign v.coefficient v.exponent) j =
          canonicalGroup (groupOfWord (groupTable f) W j) := by
  have hcc := coefEnc_snd_lt f v.coefficient
  rw [encodeFinite_decodeFinite hG hv]
  refine ⟨?_, fun j hj => ?_⟩
  · rw [joinWord_div f _ _ hcc, word_div_eq hW]
  · rw [← groupAt_mod_two_pow hj, ← descriptorTable_coefficientContinuationBits, joinWord_mod f _ _ hcc,
      groupAt_coefEnc f _ hj, ← hv, groupOfDigits_decodeFinite hG hj]

/-- The first seven bits of a word. -/
theorem word_div_seven_eq {f : Fmt} {W : Nat} (hW : W < 2 ^ f.totalBits) :
    W / 2 ^ (f.totalBits - 7) =
      ((wordSign (descriptorTable f) W).code.toNat * 2 ^ 5 + (wordCombination (descriptorTable f) W).toNat) * 2 +
        wordBit6 (descriptorTable f) W := by
  have hexp : f.totalBits - 6 = f.totalBits - 7 + 1 := by cases f <;> rfl
  rw [← word_div_top_eq hW, wordBit6_eq, hexp, pow_succ, ← Nat.div_div_eq_div_mul]
  exact (Nat.div_add_mod' ..).symm

/-- The word of a special value by its first seven bits: sign, combination field and stream bit 6. -/
theorem encodeSpecial_eq_fields (f : Fmt) (s : Sign) (k : Kind) : encodeSpecial (descriptorTable f) s k =
    ((s.code.toNat * 2 ^ 5 + specialTag k / 2) * 2 + specialTag k % 2) * 2 ^ (f.totalBits - 7) := by
  have hbits : s.code.toNat * 2 ^ 6 + specialTag k = (s.code.toNat * 2 ^ 5 + specialTag k / 2) * 2 + specialTag k % 2 := by
    omega
  rw [encodeSpecial, descriptorTable_totalBits, hbits]

/-- The word of a special value, read from the word it was decoded from: sign and tag stay, the rest is lost. -/
theorem encodeSpecial_decodeWord {f : Fmt} {W : Nat} (hW : W < 2 ^ f.totalBits) {v : DecimalValue}
    (hv : decodeWord (descriptorTable f) romDpdContents W = v) :
    (v.kind = .infinity →
        encodeSpecial (descriptorTable f) v.sign v.kind = W / 2 ^ (f.totalBits - 6) * 2 ^ (f.totalBits - 6)) ∧
      (v.kind = .nan ∨ v.kind = .signalingNan →
        encodeSpecial (descriptorTable f) v.sign v.kind = W / 2 ^ (f.totalBits - 7) * 2 ^ (f.totalBits - 7)) := by
  have h6 : wordBit6 (descriptorTable f) W < 2 := by
    rw [wordBit6_eq]
    exact Nat.mod_lt _ (by decide)
  rw [encodeSpecial_eq_fields, word_div_seven_eq hW, word_div_top_eq hW, ← hv, decodeWord_sign]
  unfold decodeWord
  split_ifs with hinf hnan hbit
  · have hexp : f.totalBits - 6 = f.totalBits - 7 + 1 := by cases f <;> rfl
    refine ⟨fun _ => ?_, by rintro (h | h) <;> cases h⟩
    simp [specialValue, specialTag, hinf, hexp, pow_succ', mul_assoc]
  · refine ⟨nofun, fun _ => ?_⟩
    simp [specialValue, specialTag, hnan, hbit]
  · refine ⟨nofun, fun _ => ?_⟩
    simp [specialValue, specialTag, hnan, (by omega : wordBit6 (descriptorTable f) W = 1)]
  · exact ⟨nofun, by rintro (h | h) <;> cases h⟩

/-- Settles O48: by whether the word's value is finite. -/
theorem encodeAfterDecodeCanonical : Obligations.EncodeAfterDecodeCanonical := by
  intro f bs hlen T C n W
  have hW : W < 2 ^ f.totalBits := by
    rw [totalBits_eq_bytes]
    exact wordOf_lt (byteLength_bounds f).2 bs
  obtain ⟨v, hdec⟩ : ∃ v, decodeWord (descriptorTable f) romDpdContents W = v := ⟨_, rfl⟩
  have hexec (s : State) (hs : s.TablesReady) : exec (.decode f bs) s = .next (s.deliver (.value v)) := by
    rw [exec_decode hs hlen, hdec]
  by_cases hv : v.kind = .finite
  · have hG := combination_lt_of_finite _ (hdec ▸ hv)
    have hvalid : ValidValue (descriptorTable f) v := hdec ▸ validValue_decodeWord (hdec ▸ hv)
    refine ⟨v, bytesOf (f.totalBits / 8) (encodeFinite (descriptorTable f) v.sign v.coefficient v.exponent),
      fun s hs => ⟨hexec s hs, ?_⟩, fun _ => ?_, fun h => ?_, fun h => ?_⟩
    · rw [exec_encode hs, encodeResponse_of_valid hvalid, descriptorTable_byteLength]
    · rw [wordOf_bytesOf_of_lt (encodeFinite_lt ..)]
      exact encodeFinite_canonical hW hG ((decodeWord_of_lt _ hG).symm.trans hdec)
    · cases hv.symm.trans h
    · obtain h | h := h <;> cases hv.symm.trans h
  · refine ⟨v, bytesOf (f.totalBits / 8) (encodeSpecial (descriptorTable f) v.sign v.kind), fun s hs => ⟨hexec s hs, ?_⟩,
      fun h => absurd h hv, ?_⟩
    · rw [exec_encode hs, encodeResponse_of_special hv, descriptorTable_byteLength]
    · rw [wordOf_bytesOf_of_lt (encodeSpecial_lt ..)]
      exact encodeSpecial_decodeWord hW hdec

end Sys2Proof.Machine

/-! PROOFS. Which faults an operation can answer (60_exceptions.md R142), that every response fits its fields (10_state.md R18,
R23 to R26), and the host's sequences of 30_encoding.md R60. -/

namespace Sys2Proof.Machine

/-! ### The responses each operation can give -/

theorem dpdencResponse_cases (d0 d1 d2 : Digit) :
    (∃ g, dpdencResponse d0 d1 d2 = .group g) ∨ dpdencResponse d0 d1 d2 = .fault (.illegalOperand .digit) := by
  unfold dpdencResponse
  split
  · exact .inl ⟨_, rfl⟩
  · exact .inr rfl

theorem lenchkResponse_cases (F : Descriptor) (bs : ByteString) :
    lenchkResponse F bs = .pass ∨ lenchkResponse F bs = .fault (.lengthError bs.len.toNat F.byteLength) :=
  (em (bs.len.toNat = F.byteLength)).imp lenchkResponse_of_eq lenchkResponse_of_ne

theorem decodeResponse_cases (F : Descriptor) (rom : Vector Triplet 1024) (bs : ByteString) :
    (∃ W, decodeResponse F rom bs = .value (decodeWord F rom W)) ∨
      decodeResponse F rom bs = .fault (.lengthError bs.len.toNat F.byteLength) :=
  (em (bs.len.toNat = F.byteLength)).imp (fun h => ⟨_, decodeResponse_of_eq rom h⟩) (decodeResponse_of_ne rom)

/-- VALIDATE and ENCODE fault alike, with what the range tests report. -/
theorem validateResponse_encodeResponse_cases (F : Descriptor) (v : DecimalValue) :
    (validateResponse F v = .pass ∧ ∃ bs, encodeResponse F v = .bytes bs) ∨
      ∃ o, overflowOf F v.coefficient v.exponent = some o ∧ validateResponse F v = .fault (.overflowError o) ∧
        encodeResponse F v = .fault (.overflowError o) := by
  by_cases hv : v.kind = .finite
  · cases ho : overflowOf F v.coefficient v.exponent with
    | none => exact .inl ⟨validateResponse_of_none hv ho, _, by rw [encodeResponse, if_pos hv, ho]⟩
    | some o => exact .inr ⟨o, rfl, validateResponse_of_some hv ho, encodeResponse_of_some hv ho⟩
  · exact .inl ⟨validateResponse_of_special hv F, _, encodeResponse_of_special hv F⟩

theorem overflowOf_cases {F : Descriptor} {c : Nat} {e : Int} {o : Overflow} (h : overflowOf F c e = some o) :
    o = .exp e ∨ o = .coef c := by
  unfold overflowOf at h
  split_ifs at h <;> cases h
  · exact .inl rfl
  · exact .inr rfl

theorem toapdResponse_cases (v : DecimalValue) :
    toapdResponse v = .apd { u := signedCoefficient v, x := v.exponent } ∨
      toapdResponse v = .fault (.inconvertibleValue v.kind v.sign) :=
  (em (v.kind = .finite)).imp toapdResponse_of_finite toapdResponse_of_special

/-! ### The faults of each operation (60_exceptions.md R142) -/

/-- The response is no fault, or one of a code of the list. -/
def Response.FaultIn (codes : List (BitVec 3)) : Response → Prop
  | .fault f => f.code ∈ codes
  | _ => True

theorem dpdencResponse_faultIn (d0 d1 d2 : Digit) : (dpdencResponse d0 d1 d2).FaultIn [6] := by
  obtain ⟨g, h⟩ | h := dpdencResponse_cases d0 d1 d2 <;> rw [h]
  · trivial
  · exact List.mem_singleton.2 rfl

theorem lenchkResponse_faultIn (F : Descriptor) (bs : ByteString) : (lenchkResponse F bs).FaultIn [1] := by
  obtain h | h := lenchkResponse_cases F bs <;> rw [h]
  · trivial
  · exact List.mem_singleton.2 rfl

theorem decodeResponse_faultIn (F : Descriptor) (rom : Vector Triplet 1024) (bs : ByteString) :
    (decodeResponse F rom bs).FaultIn [1] := by
  obtain ⟨W, h⟩ | h := decodeResponse_cases F rom bs <;> rw [h]
  · trivial
  · exact List.mem_singleton.2 rfl

theorem validateResponse_encodeResponse_faultIn (F : Descriptor) (v : DecimalValue) :
    (validateResponse F v).FaultIn [2] ∧ (encodeResponse F v).FaultIn [2] := by
  obtain ⟨hval, bs, henc⟩ | ⟨o, -, hval, henc⟩ := validateResponse_encodeResponse_cases F v <;> rw [hval, henc]
  · exact ⟨trivial, trivial⟩
  · exact ⟨List.mem_singleton.2 rfl, List.mem_singleton.2 rfl⟩

theorem fromapdResponse_faultIn (P : Params) (a : Apd) : (fromapdResponse P a).FaultIn [6] := by
  by_cases h : a.u = -2 ^ P.coefw
  · rw [fromapdResponse_of_eq h]
    exact List.mem_singleton.2 rfl
  · rw [fromapdResponse_of_ne h]
    trivial

theorem toapdResponse_faultIn (v : DecimalValue) : (toapdResponse v).FaultIn [3] := by
  obtain h | h := toapdResponse_cases v <;> rw [h]
  · trivial
  · exact List.mem_singleton.2 rfl

theorem responseOf_faultIn (s : State) (i : Instr) : (responseOf s i).FaultIn (faultCodes i) := by
  cases i with
  | dpdenc d0 d1 d2 => exact dpdencResponse_faultIn ..
  | lenchkD32 bs | lenchkD64 bs | lenchkD128 bs => exact lenchkResponse_faultIn ..
  | validateD32 v | validateD64 v | validateD128 v => exact (validateResponse_encodeResponse_faultIn ..).1
  | decodeD32 bs | decodeD64 bs | decodeD128 bs => exact decodeResponse_faultIn ..
  | encodeD32 v | encodeD64 v | encodeD128 v => exact (validateResponse_encodeResponse_faultIn ..).2
  | fromapd a => exact fromapdResponse_faultIn ..
  | toapd v => exact toapdResponse_faultIn v
  | _ => trivial

theorem faultCodes_subset (i : Instr) : faultCodes i ⊆ [1, 2, 3, 6] := by
  cases i <;> (rw [faultCodes]; decide)

theorem ne_of_mem_faultCodes : ∀ code ∈ ([1, 2, 3, 6] : List (BitVec 3)),
    code ≠ 0 ∧ code ≠ 4 ∧ code ≠ 7 ∧ (code = 5 ↔ false = true) := by
  decide

/-- Fault bits on a port are a fault's. -/
theorem Response.eq_fault_of_code {P : Params} {r : Response} {code : BitVec 3} {info : InfoField}
    (h : r.code P = .fault code info) : ∃ f, r = .fault f ∧ f.code = code := by
  cases r with
  | fault f => exact ⟨f, rfl, (PortResponse.fault.inj h).1⟩
  | _ => cases h

theorem code_mem_of_faultIn {P : Params} {r : Response} {codes : List (BitVec 3)} {code : BitVec 3} {info : InfoField}
    (hr : r.FaultIn codes) (h : r.code P = .fault code info) : code ∈ codes := by
  obtain ⟨f, rfl, rfl⟩ := Response.eq_fault_of_code h
  exact hr

/-- The last response at the port served is the one delivered. -/
theorem getLast?_responses_deliver {s : State} {k : Nat} {q : Request} (h : s.pick = some (k, q)) {r : Response} {p : Port}
    (hp : (s.deliver r).ports[k]? = some p) : p.responses.getLast? = some (r.code s.params) := by
  obtain ⟨p', -, -, hp'⟩ := State.deliver_served h r
  cases hp.symm.trans hp'
  exact List.getLast?_concat

/-- Settles O53: the response delivered is the decoded instruction's, or for an illegal byte the fault of code 5. -/
theorem faultsByOperation : Obligations.FaultsByOperation := by
  refine ⟨fun i s t k q p code info hpick ht hp hlast => ?_, fun s t k q p code info hpick ht hp hlast => ?_⟩
  · cases (exec_eq_deliver i s).symm.trans ht
    rw [getLast?_responses_deliver hpick hp, Option.some.injEq] at hlast
    exact code_mem_of_faultIn (responseOf_faultIn s i) hlast
  · cases (step_of_pick hpick).symm.trans ht
    rw [getLast?_responses_deliver hpick hp, Option.some.injEq] at hlast
    cases hill : illegalByte q.cmd with
    | true =>
      rw [responseTo_of_illegalByte s hill] at hlast
      cases hlast
      rw [FaultInfo.code]
      decide
    | false =>
      obtain ⟨i, hi⟩ := (exists_decode_iff (P := s.params)).2 hill
      have hresp : responseTo s q = responseOf s i := by rw [responseTo, hi]
      rw [hresp] at hlast
      exact ne_of_mem_faultCodes _ (faultCodes_subset i (code_mem_of_faultIn (responseOf_faultIn s i) hlast))

/-! ### Every response fits its fields -/

/-- The fault's information fits its fields (60_exceptions.md R135). -/
def FaultInfo.Fits (P : Params) : FaultInfo → Prop
  | .lengthError actual expected => actual < 2 ^ 8 ∧ expected < 2 ^ 5
  | .overflowError (.exp e) => fitsInt P.expw e = true
  | .overflowError (.coef c) => fitsNat P.coefw c = true
  | _ => True

/-- The response fits its fields (10_state.md R18, R23, R25, R26): its integers their widths, its descriptor a format's. -/
def Response.Fits (P : Params) : Response → Prop
  | .descriptor D => ∃ f, D = descriptorTable f
  | .int n => fitsInt (P.expw + 1) n = true
  | .value v => v.fits P = true
  | .apd a => a.fits P = true
  | .fault f => f.Fits P
  | _ => True

theorem FaultInfo.read_info {P : Params} (hP : P.Legal) {f : FaultInfo} (h : f.Fits P) :
    FaultInfo.read P f.code (f.info P) = some f := by
  have hexp : 0 < P.expw := by have := hP.expw_ge; omega
  cases f with
  | lengthError actual expected =>
    simpa [FaultInfo.read, FaultInfo.code, FaultInfo.info, FaultInfo.Fits] using h
  | overflowError o =>
    cases o with
    | exp e => simp [FaultInfo.read, FaultInfo.code, FaultInfo.info, intField_intCode hexp h]
    | coef c => simp [FaultInfo.read, FaultInfo.code, FaultInfo.info, natField_natCode h]
  | inconvertibleValue kind sign => simp [FaultInfo.read, FaultInfo.code, FaultInfo.info]
  | malformedNumericString => rfl
  | illegalCommand cmd => rfl
  | illegalOperand reason => cases reason <;> rfl

theorem Descriptor.read_code {P : Params} (hP : P.Legal) (f : Fmt) :
    ((descriptorTable f).code P).read P = descriptorTable f := by
  have hmax : fitsNat P.coefw (descriptorTable f).maxCoefficient = true := by
    have := ten_pow_coefficientDigits_le hP f
    rw [fitsNat, decide_eq_true_iff, maxCoefficient_descriptorTable]
    have hnat : 10 ^ f.coefficientDigits ≤ 2 ^ P.coefw := by exact_mod_cast this
    have : 0 < 10 ^ f.coefficientDigits := by positivity
    omega
  rw [Descriptor.code, DescriptorField.read, natField_natCode hmax]
  cases f <;> rfl

/-- What fits its fields is read back from them. -/
theorem Response.read_code {P : Params} (hP : P.Legal) {r : Response} (h : r.Fits P) :
    (r.code P).read P = some r := by
  cases r with
  | descriptor D =>
    obtain ⟨f, rfl⟩ := h
    rw [Response.code, PortResponse.read, Descriptor.read_code hP]
  | int n => rw [Response.code, PortResponse.read, intField_intCode P.expw.succ_pos h]
  | value v => rw [Response.code, PortResponse.read, DecimalValue.read_code hP h]
  | apd a => rw [Response.code, PortResponse.read, Apd.read_code hP h]
  | fault f => rw [Response.code, PortResponse.read, FaultInfo.read_info hP h, Option.map_some]
  | bool b => cases b <;> rfl
  | group | triplet | pass | bytes => rfl

/-! ### The widths of what each operation answers (43_rescale_round.md R97, 44_binary_codec.md R116, 45_value_ops.md R127) -/

section Widths
variable {P : Params}

theorem fits_specialValue (s : Sign) (k : Kind) : (specialValue s k).fits P = true := by
  simp [DecimalValue.fits, specialValue, fitsNat, fitsInt]

theorem fits_canon {v : DecimalValue} (h : v.fits P = true) : (canon v).fits P = true := by
  unfold canon
  split
  · exact h
  · exact fits_specialValue ..

/-- The magnitude of every operand but `-2^COEFW` needs `COEFW` bits. -/
theorem fits_fromapdResponse {a : Apd} (h : a.fits P = true) : (fromapdResponse P a).Fits P := by
  obtain ⟨hu, hx⟩ := Bool.and_eq_true_iff.1 h
  obtain ⟨hlow, hhigh⟩ := of_decide_eq_true hu
  rw [Nat.add_sub_cancel] at hlow hhigh
  by_cases hmin : a.u = -2 ^ P.coefw
  · rw [fromapdResponse_of_eq hmin]
    trivial
  · have habs : (a.u.natAbs : Int) < 2 ^ P.coefw := by omega
    rw [fromapdResponse_of_ne hmin]
    exact Bool.and_eq_true_iff.2 ⟨decide_eq_true (mod_cast habs), hx⟩

/-- A sign and a magnitude of `COEFW` bits need one bit more. -/
theorem fits_toapdResponse {v : DecimalValue} (h : v.fits P = true) : (toapdResponse v).Fits P := by
  obtain ⟨hc, he⟩ := Bool.and_eq_true_iff.1 h
  obtain hv | hv := toapdResponse_cases v <;> rw [hv]
  · have hlt : (v.coefficient : Int) < 2 ^ P.coefw := mod_cast of_decide_eq_true hc
    have habs := natAbs_signedCoefficient v
    refine Bool.and_eq_true_iff.2 ⟨decide_eq_true ?_, he⟩
    rw [Nat.add_sub_cancel]
    dsimp only
    omega
  · trivial

/-- The faults of VALIDATE and ENCODE report a field of the operand. -/
theorem fits_validateResponse_encodeResponse (F : Descriptor) {v : DecimalValue} (h : v.fits P = true) :
    (validateResponse F v).Fits P ∧ (encodeResponse F v).Fits P := by
  obtain ⟨hc, he⟩ := Bool.and_eq_true_iff.1 h
  obtain ⟨hval, bs, henc⟩ | ⟨o, ho, hval, henc⟩ := validateResponse_encodeResponse_cases F v <;> rw [hval, henc]
  · exact ⟨trivial, trivial⟩
  · obtain rfl | rfl := overflowOf_cases ho
    · exact ⟨he, he⟩
    · exact ⟨hc, hc⟩

theorem fits_lengthError (f : Fmt) (bs : ByteString) :
    FaultInfo.Fits P (.lengthError bs.len.toNat (descriptorTable f).byteLength) :=
  ⟨bs.len.isLt, by cases f <;> decide⟩

theorem fits_lenchkResponse (f : Fmt) (bs : ByteString) : (lenchkResponse (descriptorTable f) bs).Fits P := by
  obtain h | h := lenchkResponse_cases (descriptorTable f) bs <;> rw [h]
  · trivial
  · exact fits_lengthError (P := P) f bs

theorem fits_dpdencResponse (d0 d1 d2 : Digit) : (dpdencResponse d0 d1 d2).Fits P := by
  obtain ⟨g, h⟩ | h := dpdencResponse_cases d0 d1 d2 <;> rw [h] <;> trivial

variable (hP : P.Legal)
include hP

/-- An exponent legal in some format fits. -/
theorem fitsInt_of_biased {f : Fmt} {e : Int} (hlow : 0 ≤ biased (descriptorTable f) e)
    (hhigh : biased (descriptorTable f) e ≤ (descriptorTable f).maxBiasedExponent) : fitsInt P.expw e = true := by
  have hpow : (2 : Int) ^ 15 ≤ 2 ^ (P.expw - 1) := pow_le_pow_right₀ (by decide) (by have := hP.expw_ge; omega)
  have hbias : 0 < (descriptorTable f).exponentBias ∧ (descriptorTable f).exponentBias ≤ 2 ^ 15 ∧
      (descriptorTable f).maxBiasedExponent ≤ 2 ^ 15 := by cases f <;> decide
  rw [biased] at hlow hhigh
  exact decide_eq_true ⟨by omega, by omega⟩

/-- A coefficient of the digits of some format fits. -/
theorem fitsNat_of_lt {f : Fmt} {c : Nat} (hc : c < 10 ^ f.coefficientDigits) : fitsNat P.coefw c = true :=
  decide_eq_true (hc.trans_le (mod_cast ten_pow_coefficientDigits_le hP f))

theorem fits_of_valid {f : Fmt} {v : DecimalValue} (h : ValidValue (descriptorTable f) v) : v.fits P = true := by
  obtain ⟨hlow, hhigh⟩ := of_decide_eq_true (validFor_iff.1 h.2).1
  exact Bool.and_eq_true_iff.2 ⟨fitsNat_of_lt hP (coefficient_lt_of_valid h), fitsInt_of_biased hP hlow hhigh⟩

theorem fits_of_canonical {f : Fmt} {v : DecimalValue} (hcanon : Canonical v)
    (hvalid : v.kind = .finite → ValidValue (descriptorTable f) v) : v.fits P = true := by
  by_cases hv : v.kind = .finite
  · exact fits_of_valid hP (hvalid hv)
  · rw [hcanon.eq_specialValue hv]
    exact fits_specialValue ..

theorem fits_roundValue (f : Fmt) (v : DecimalValue) : (roundValue (descriptorTable f) v).fits P = true :=
  fits_of_canonical hP (canonical_roundValue _ v) validValue_of_roundValue_finite

theorem fits_decodeResponse (f : Fmt) (bs : ByteString) :
    (decodeResponse (descriptorTable f) romDpdContents bs).Fits P := by
  obtain ⟨W, h⟩ | h := decodeResponse_cases (descriptorTable f) romDpdContents bs <;> rw [h]
  · exact fits_of_canonical hP (canonical_decodeWord _ _ W) validValue_decodeWord
  · exact fits_lengthError (P := P) f bs

/-- RESCALE's coefficient is at most the operand's, or has the digits of the format. -/
theorem fitsNat_rescaleFinite (f : Fmt) {c : Nat} (e : Int) (hc : fitsNat P.coefw c = true) :
    fitsNat P.coefw (rescaleFinite (descriptorTable f) c e).1 = true := by
  obtain h | ⟨c', k, -, rfl, h⟩ | ⟨k, -, -, hfits, h⟩ := rescaleFinite_cases (descriptorTable f) c e <;> rw [h]
  · exact hc
  · have hle : c' ≤ c' * 10 ^ k := Nat.le_mul_of_pos_right _ (by positivity)
    exact decide_eq_true (hle.trans_lt (of_decide_eq_true hc))
  · obtain rfl | hpos := Nat.eq_zero_or_pos c
    · rwa [zero_mul]
    · refine fitsNat_of_lt hP (f := f) ?_
      have hdigits := hfits.resolve_left hpos.ne'
      rwa [← digits_mul_ten_pow hpos, digits_le_iff (coefficientDigits_pos f), descriptorTable_coefficientDigits] at hdigits

/-- An exponent that RESCALE changes becomes a legal one. -/
theorem fits_rescaleValue (f : Fmt) {v : DecimalValue} (h : v.fits P = true) :
    (rescaleValue (descriptorTable f) v).fits P = true := by
  by_cases hv : v.kind = .finite
  · obtain ⟨hc, he⟩ := Bool.and_eq_true_iff.1 h
    rw [rescaleValue_eq_finiteValue _ hv]
    refine Bool.and_eq_true_iff.2 ⟨fitsNat_rescaleFinite hP f _ hc, ?_⟩
    dsimp only [finiteValue]
    obtain h | h | h := rescaleFinite_exponent (descriptorTable f) v.coefficient v.exponent
    · rwa [h]
    · exact fitsInt_of_biased hP h.ge (by omega)
    · exact fitsInt_of_biased hP (by omega) h.le
  · rw [rescaleValue_of_special hv]
    exact fits_specialValue ..

end Widths

theorem responseOf_fits {s : State} (hs : s.TablesReady) (hP : s.params.Legal) {i : Instr}
    (hi : i.wellFormed s.params = true) : (responseOf s i).Fits s.params := by
  cases i with
  | dpdenc d0 d1 d2 => exact fits_dpdencResponse ..
  | fmtqD32 | fmtqD64 | fmtqD128 => exact ⟨_, hs.descriptor_eq _⟩
  | biasexpD32 e | biasexpD64 e | biasexpD128 e =>
    rw [responseOf, hs.descriptor_eq]
    exact fitsInt_biased hP _ hi
  | lenchkD32 bs | lenchkD64 bs | lenchkD128 bs =>
    rw [responseOf, hs.descriptor_eq]
    exact fits_lenchkResponse ..
  | rescaleD32 v | rescaleD64 v | rescaleD128 v =>
    rw [responseOf, hs.descriptor_eq]
    exact fits_rescaleValue hP _ hi
  | roundD32 v | roundD64 v | roundD128 v =>
    rw [responseOf, hs.descriptor_eq]
    exact fits_roundValue hP ..
  | validateD32 v | validateD64 v | validateD128 v => exact (fits_validateResponse_encodeResponse _ hi).1
  | decodeD32 bs | decodeD64 bs | decodeD128 bs =>
    rw [responseOf, hs.descriptor_eq, hs.dpd]
    exact fits_decodeResponse hP ..
  | encodeD32 v | encodeD64 v | encodeD128 v => exact (fits_validateResponse_encodeResponse _ hi).2
  | fromapd a => exact fits_fromapdResponse hi
  | toapd v => exact fits_toapdResponse hi
  | neg v => exact fits_canon hi
  | dpddec | coefchkD32 | coefchkD64 | coefchkD128 => trivial

/-- Settles O54: the response of each operation fits its fields, so it is read back. -/
theorem responsesFitTheirFields : Obligations.ResponsesFitTheirFields := fun s i hs hP hi =>
  ⟨exec_eq_deliver i s, Response.read_code hP (responseOf_fits hs hP hi), Response.responseFits_code ..⟩

/-! ### The host's sequences (30_encoding.md R60) -/

section Sequences
variable {s : State} (hs : s.TablesReady) (hP : s.params.Legal)
include hs hP

/-- The host reads the response of every instruction a port can carry as the rules give it. -/
theorem ask_of_wellFormed {i : Instr} (hi : i.wellFormed s.params = true) : s.ask i = some (responseOf s i) := by
  rw [State.ask_eq, responseTo, decodeEncodeRoundTrip _ _ hP hi]
  exact Response.read_code hP (responseOf_fits hs hP hi)

variable (f : Fmt) {v : DecimalValue} (hv : v.fits s.params = true)
include hv

theorem ask_rescale : s.ask (.rescale f v) = some (.value (rescaleValue (descriptorTable f) v)) := by
  rw [ask_of_wellFormed hs hP (by cases f <;> exact hv), responseOf_rescale, hs.descriptor_eq, rescaleResponse]

theorem ask_round : s.ask (.round f v) = some (.value (roundValue (descriptorTable f) v)) := by
  rw [ask_of_wellFormed hs hP (by cases f <;> exact hv), responseOf_round, hs.descriptor_eq, roundResponse]

theorem ask_validate : s.ask (.validate f v) = some (validateResponse (descriptorTable f) v) := by
  rw [ask_of_wellFormed hs hP (by cases f <;> exact hv), responseOf_validate, hs.descriptor_eq]

theorem ask_encode : s.ask (.encode f v) = some (encodeResponse (descriptorTable f) v) := by
  rw [ask_of_wellFormed hs hP (by cases f <;> exact hv), responseOf_encode, hs.descriptor_eq]

/-- `TOBYTES.R` is ENCODE of ROUND. -/
theorem tobytesRound_eq : s.tobytesRound f v = some (encodeResponse (descriptorTable f) (roundValue (descriptorTable f) v)) := by
  rw [State.tobytesRound, ask_round hs hP f hv]
  exact ask_encode hs hP f (fits_roundValue hP f v)

/-- `TOBYTES.X` is ENCODE of RESCALE: where VALIDATE faults ENCODE answers the same fault. -/
theorem tobytesExact_eq :
    s.tobytesExact f v = some (encodeResponse (descriptorTable f) (rescaleValue (descriptorTable f) v)) := by
  have hfits := fits_rescaleValue hP f hv
  rw [State.tobytesExact, ask_rescale hs hP f hv, thenValue, ask_validate hs hP f hfits, ask_encode hs hP f hfits]
  obtain ⟨hval, -⟩ | ⟨o, -, hval, henc⟩ :=
    validateResponse_encodeResponse_cases (descriptorTable f) (rescaleValue (descriptorTable f) v)
  · rw [hval, thenPass]
  · rw [hval, henc]
    rfl

end Sequences

/-- Settles O55: what ROUND gives is canonical, and valid where it is finite, so ENCODE answers bytes. -/
theorem tobytesRoundNeverFaults : Obligations.TobytesRoundNeverFaults := by
  intro s f v hs hP hv
  obtain ⟨-, -, -, bs, henc⟩ :=
    canonical_valid_kept (canonical_roundValue (descriptorTable f) v) validValue_of_roundValue_finite
  exact ⟨bs, by rw [tobytesRound_eq hs hP f hv, henc], byteLength_of_encode henc⟩

/-- Where the exact fit has bytes ROUND gives the same value. -/
theorem roundValue_eq_of_encode_rescaleValue {f : Fmt} {v : DecimalValue} {bs : ByteString}
    (h : encodeResponse (descriptorTable f) (rescaleValue (descriptorTable f) v) = .bytes bs) :
    roundValue (descriptorTable f) v = rescaleValue (descriptorTable f) v := by
  by_cases hv : v.kind = .finite
  · have hkind : (rescaleValue (descriptorTable f) v).kind = .finite := by rw [rescaleValue_eq_finiteValue _ hv, finiteValue]
    by_cases hvalid : ValidValue (descriptorTable f) (rescaleValue (descriptorTable f) v)
    · exact roundValue_eq_of_valid_rescaleValue hv hvalid
    · obtain ⟨o, ho⟩ := exists_overflow_of_invalid hkind hvalid
      rw [encodeResponse_of_some hkind ho] at h
      cases h
  · rw [roundValue_of_special hv, rescaleValue_of_special hv]

/-- Settles O56: both conversions are one operation and ENCODE, and where the exact one has bytes the two operations agree. -/
theorem tobytesExactAgrees : Obligations.TobytesExactAgrees := by
  intro s f v hs hP hv
  refine ⟨?_, fun bs h => ?_⟩
  · rw [tobytesExact_eq hs hP f hv, ask_rescale hs hP f hv]
    exact (ask_encode hs hP f (fits_rescaleValue hP f hv)).symm
  · rw [tobytesExact_eq hs hP f hv, Option.some.injEq] at h
    rw [tobytesRound_eq hs hP f hv, roundValue_eq_of_encode_rescaleValue h, h]

end Sys2Proof.Machine
